-- ==== Sys2Proof/Word.lean ====
section
/-! DEFINITION. The words that cross MSRXQ's ports (30_encoding R90, R93, R98). -/

namespace Sys2Proof

/-- One byte: a length, a count, an index, an address, a payload byte (00_scope R13). -/
abbrev Byte := BitVec 8

/-- A 16-bit result value RV (30_encoding R91, R98). -/
abbrev Half := BitVec 16

/-- The 32-bit command word CW, the only command format (30_encoding R90, R100). -/
abbrev CmdWord := BitVec 32

/-- What can be presented from outside to be executed: a command word on CMD (30_encoding R90) or an
interrupt, named by its 8-bit event byte (30_encoding R93). -/
inductive PortWord where
  | cw (w : CmdWord)
  | ev (e : Byte)
deriving DecidableEq, Repr

end Sys2Proof
end

