-- ==== Sys2Proof/Config.lean ====
section
/-! DEFINITION. The implementation parameters of 00_scope R7 to R12, and the free values: what the
collaborator answers when nothing fixes it (00_scope R17 `draw`, 93 U8). -/

namespace Sys2Proof

/-- A frame as the radio chip delivers it. Its raw length is the number of bytes delivered, 0 .. 255
(41_irq_handler R151, R160; log 17). `wantAck` is the acknowledgment request that only the direct
mode looks at (40_queue_ops R128). -/
structure ChipFrame where
  bytes   : List Byte
  wantAck : Bool
deriving DecidableEq, Repr, Inhabited

/-- The parameters a model takes as an argument (00_scope R7, R8, R10, R11, R12). `State` carries one
and no step changes it (log 2). -/
structure Config where
  /-- `N`, the queue capacity (R7). -/
  n : Nat
  /-- `MAX_FRAME_LEN` (R8). -/
  maxFrameLen : Nat
  /-- `BUFFERED`, the receive strategy (R10). -/
  buffered : Bool
  /-- `IRQ_POLLED` (R11). -/
  irqPolled : Bool
  /-- `RETRIES` of the retrying send (R12, R178). -/
  retries : Nat
  hasTxLevel : Bool
  hasTxPercent : Bool
  hasRssiTx : Bool
  hasRssiRx : Bool
  hasSnrTx : Bool
  hasSnrRx : Bool
  invalidRssi : Half
  invalidSnr : Half
  invalidLevel : Half
  invalidPercent : Half
  /-- `IS_COORDINATOR`: the collaborator then leaves power control off; it changes no MSRXQ state and no
  call MSRXQ makes (R12, R179), so no operation reads it. -/
  isCoordinator : Bool
  /-- `ENCRYPTION`: INIT then has a key provisioned through `CHIP.encrypt` (R12, R179). -/
  encryption : Bool
  /-- The carrier frequency, an opaque argument of `CHIP.initialize` (R12, R171). -/
  frequency : Nat
  /-- The network id, an opaque argument of `CHIP.initialize` (R12, R171). -/
  networkId : Nat
deriving DecidableEq, Repr

/-- `S`, the bytes of one slot (20_memory R60). -/
def Config.slotSize (c : Config) : Nat := c.maxFrameLen + 1

/-- The bytes of SLOTMEM (20_memory R60). -/
def Config.memSize (c : Config) : Nat := c.n * c.slotSize

/-! Free values: constants with no body, so that nothing can be proved of what they are (log 4). The
argument is the count of answers given before, so that each draw is a fresh value. -/

/-- A Boolean answer of the collaborator that nothing fixes. -/
opaque Config.freeBool : Nat → Bool
/-- A signed 16-bit answer of the collaborator that nothing fixes. -/
opaque Config.freeHalf : Nat → Half
/-- A frame delivered by the collaborator that nothing fixes. -/
opaque Config.freeFrame : Nat → ChipFrame
/-- A byte the spec leaves unspecified: ADDR after the `rst` input (10_state R38, 93 U11). -/
opaque Config.freeByte : Nat → Byte

/-! OPEN parameters to which neither the spec nor its configuration CFG-A gives a value (log 3). -/

opaque Config.openInvalidRssi : Half
opaque Config.openInvalidSnr : Half
opaque Config.openInvalidLevel : Half
opaque Config.openInvalidPercent : Half
opaque Config.openFrequency : Nat
opaque Config.openNetworkId : Nat

/-- CFG-A of 95_test_vectors: N = 4, MAX_FRAME_LEN = 4, buffered, not polled, RETRIES = 1, every HAS_*
flag true. The configuration of `State.reset` (DESIGN CHOICE, log 2). -/
def Config.cfgA : Config where
  n := 4
  maxFrameLen := 4
  buffered := true
  irqPolled := false
  retries := 1
  hasTxLevel := true
  hasTxPercent := true
  hasRssiTx := true
  hasRssiRx := true
  hasSnrTx := true
  hasSnrRx := true
  invalidRssi := Config.openInvalidRssi
  invalidSnr := Config.openInvalidSnr
  invalidLevel := Config.openInvalidLevel
  invalidPercent := Config.openInvalidPercent
  isCoordinator := false
  encryption := false
  frequency := Config.openFrequency
  networkId := Config.openNetworkId

end Sys2Proof
end

