-- ==== Sys2Proof/Syntax.lean ====
section
/-! DEFINITION. The operations of MSRXQ: one constructor per row of spec/opcode_table.json. An unused
operand field is ignored by the hardware (30_encoding R97) and so is no part of the instruction. -/

namespace Sys2Proof

/-- The 22 operations of the MAIN port (30_encoding R95) and the interrupt event (R93). Every operand
is an unsigned byte, or a flag, taken as it stands from the word (R94). -/
inductive Instr where
  /-- 0x01, 40_queue_ops R124. -/
  | available
  /-- 0x02, 40_queue_ops R127, R128. -/
  | receive
  /-- 0x03, 40_queue_ops R129. -/
  | qempty
  /-- 0x04, 40_queue_ops R130. -/
  | qfull
  /-- 0x05, `k` the CSR number, 40_queue_ops R131. -/
  | rdcsr (k : Byte)
  /-- 0x10, 42_mode_ops R171. -/
  | init
  /-- 0x11, destination, length, `suppress_ack`, 42_mode_ops R172. -/
  | send (dest len : Byte) (noack : Bool)
  /-- 0x12, 42_mode_ops R173. -/
  | sleep
  /-- 0x13, 42_mode_ops R174. -/
  | standby
  /-- 0x14, 42_mode_ops R175. -/
  | powerdown
  /-- 0x15, 42_mode_ops R176. -/
  | powerup
  /-- 0x20, 43_facade_passthrough R200. -/
  | setaddr (addr : Byte)
  /-- 0x21, 43_facade_passthrough R201. -/
  | getaddr
  /-- 0x22, 43_facade_passthrough R202. -/
  | settxlvl (level : Byte)
  /-- 0x23, 43_facade_passthrough R203. -/
  | gettxlvl
  /-- 0x24, 43_facade_passthrough R204. -/
  | settxpct (percent : Byte)
  /-- 0x25, 43_facade_passthrough R205. -/
  | gettxpct
  /-- 0x26, 43_facade_passthrough R206. -/
  | getsrssi
  /-- 0x27, 43_facade_passthrough R207. -/
  | getrrssi
  /-- 0x28, 43_facade_passthrough R208. -/
  | getssnr
  /-- 0x29, 43_facade_passthrough R209. -/
  | getrsnr
  /-- 0x2A, 43_facade_passthrough R210. -/
  | sanity
  /-- Event byte 0x80 + F, `frameReady` = F, 41_irq_handler R151. -/
  | irq (frameReady : Bool)
deriving DecidableEq, Repr

end Sys2Proof
end

