-- ==== Sys2Proof/WellFormed.lean ====
section
/-! DEFINITION. The checks: parameters in the ranges of 00_scope R7 and R8, and operands in the ranges
the opcode table gives. An operand outside its range is still executed: the hardware answers it
(ILLEGAL or `DONE 0`), so nothing of the machine depends on `Instr.wellFormed`. -/

namespace Sys2Proof

/-- 1 ≤ N ≤ 255 and 1 ≤ MAX_FRAME_LEN ≤ 255 (00_scope R7, R8). -/
def Config.wellFormed (c : Config) : Bool :=
  decide (1 ≤ c.n) && decide (c.n ≤ 255) && decide (1 ≤ c.maxFrameLen) && decide (c.maxFrameLen ≤ 255)

/-- Operands in the ranges of spec/opcode_table.json and 30_encoding R94: `k` in 0..4, `len` at most
MAX_FRAME_LEN, `level` in 0..23, `percent` in 0..100; every other operand is any byte. -/
def Instr.wellFormed (c : Config) : Instr → Bool
  | .rdcsr k => decide (k.toNat ≤ 4)
  | .send _ len _ => decide (len.toNat ≤ c.maxFrameLen)
  | .settxlvl level => decide (level.toNat ≤ 23)
  | .settxpct percent => decide (percent.toNat ≤ 100)
  | .available | .receive | .qempty | .qfull | .init | .sleep | .standby | .powerdown | .powerup
  | .setaddr _ | .getaddr | .gettxlvl | .gettxpct | .getsrssi | .getrrssi | .getssnr | .getrsnr
  | .sanity | .irq _ => true

end Sys2Proof
end

