-- ==== Sys2Proof/Decode.lean ====
section
/-! DEFINITION. The decoder of command words and event bytes, total and rejecting by name
(30_encoding R90, R93 to R97), and after it the encoder from the same table. -/

namespace Sys2Proof

/-- Why a word is no instruction. -/
inductive DecodeError where
  /-- OP is not in the opcode map (30_encoding R96). -/
  | reservedOpcode (op : Byte)
  /-- The event byte is neither 0x80 nor 0x81 (30_encoding R93). -/
  | notAnEvent (e : Byte)
deriving DecidableEq, Repr

/-- CW[7:0] (30_encoding R90). -/
def opField (w : CmdWord) : Byte := w.extractLsb' 0 8
/-- CW[15:8] (30_encoding R90). -/
def aField (w : CmdWord) : Byte := w.extractLsb' 8 8
/-- CW[23:16] (30_encoding R90). -/
def bField (w : CmdWord) : Byte := w.extractLsb' 16 8
/-- CW[31:24] (30_encoding R90). -/
def cField (w : CmdWord) : Byte := w.extractLsb' 24 8

/-- A decoder selects the operation from CW[7:0] alone (30_encoding R95); the operands are those of R94
and every other bit is ignored (R97). -/
def decodeCommand (w : CmdWord) : Except DecodeError Instr :=
  match (opField w).toNat with
  | 0x01 => .ok .available
  | 0x02 => .ok .receive
  | 0x03 => .ok .qempty
  | 0x04 => .ok .qfull
  | 0x05 => .ok (.rdcsr (aField w))
  | 0x10 => .ok .init
  | 0x11 => .ok (.send (aField w) (bField w) ((cField w).getLsbD 0))
  | 0x12 => .ok .sleep
  | 0x13 => .ok .standby
  | 0x14 => .ok .powerdown
  | 0x15 => .ok .powerup
  | 0x20 => .ok (.setaddr (aField w))
  | 0x21 => .ok .getaddr
  | 0x22 => .ok (.settxlvl (aField w))
  | 0x23 => .ok .gettxlvl
  | 0x24 => .ok (.settxpct (aField w))
  | 0x25 => .ok .gettxpct
  | 0x26 => .ok .getsrssi
  | 0x27 => .ok .getrrssi
  | 0x28 => .ok .getssnr
  | 0x29 => .ok .getrsnr
  | 0x2A => .ok .sanity
  | _ => .error (.reservedOpcode (opField w))

/-- EV[7:1] = 1000000, EV[0] = F (30_encoding R93). -/
def decodeEvent (e : Byte) : Except DecodeError Instr :=
  if e.extractLsb' 1 7 = 0x40#7 then .ok (.irq (e.getLsbD 0)) else .error (.notAnEvent e)

/-- The instruction a presented word stands for. -/
def decode : PortWord → Except DecodeError Instr
  | .cw w => decodeCommand w
  | .ev e => decodeEvent e

/-- `CW = OP + (A << 8) + (B << 16) + (C << 24)` (30_encoding R90). -/
def commandWord (op a b c : Byte) : CmdWord := c ++ b ++ a ++ op

/-- The word of an instruction, unused fields 0 (30_encoding R95, R94, R97; R93 for the event). -/
def encode : Instr → PortWord
  | .available => .cw (commandWord 0x01 0 0 0)
  | .receive => .cw (commandWord 0x02 0 0 0)
  | .qempty => .cw (commandWord 0x03 0 0 0)
  | .qfull => .cw (commandWord 0x04 0 0 0)
  | .rdcsr k => .cw (commandWord 0x05 k 0 0)
  | .init => .cw (commandWord 0x10 0 0 0)
  | .send dest len noack => .cw (commandWord 0x11 dest len (if noack then 1 else 0))
  | .sleep => .cw (commandWord 0x12 0 0 0)
  | .standby => .cw (commandWord 0x13 0 0 0)
  | .powerdown => .cw (commandWord 0x14 0 0 0)
  | .powerup => .cw (commandWord 0x15 0 0 0)
  | .setaddr addr => .cw (commandWord 0x20 addr 0 0)
  | .getaddr => .cw (commandWord 0x21 0 0 0)
  | .settxlvl level => .cw (commandWord 0x22 level 0 0)
  | .gettxlvl => .cw (commandWord 0x23 0 0 0)
  | .settxpct percent => .cw (commandWord 0x24 percent 0 0)
  | .gettxpct => .cw (commandWord 0x25 0 0 0)
  | .getsrssi => .cw (commandWord 0x26 0 0 0)
  | .getrrssi => .cw (commandWord 0x27 0 0 0)
  | .getssnr => .cw (commandWord 0x28 0 0 0)
  | .getrsnr => .cw (commandWord 0x29 0 0 0)
  | .sanity => .cw (commandWord 0x2A 0 0 0)
  | .irq f => .ev (if f then 0x81 else 0x80)

/-- The bits of a command word an operation reads: OP, and the operand fields of 30_encoding R94. The
others are ignored (R97). -/
def Instr.usedBits : Instr → CmdWord
  | .rdcsr _ | .setaddr _ | .settxlvl _ | .settxpct _ => 0x0000FFFF
  | .send _ _ _ => 0x01FFFFFF
  | .available | .receive | .qempty | .qfull | .init | .sleep | .standby | .powerdown | .powerup
  | .getaddr | .gettxlvl | .gettxpct | .getsrssi | .getrrssi | .getssnr | .getrsnr | .sanity
  | .irq _ => 0x000000FF

/-- A row of the opcode table as a presented word. A word of at most 8 bits that matches the event row
(mask 0xFE, match 0x80) is an event byte; anything else is a command word, its bits above `nbits` zero
(log 21). -/
def tableWord (nbits w : Nat) : PortWord :=
  if nbits ≤ 8 ∧ w / 2 = 0x40 then .ev (BitVec.ofNat 8 w) else .cw (BitVec.ofNat 32 (w % 2 ^ nbits))

/-- The instruction the decoder reads from a row's word. -/
def decodeTableWord (nbits w : Nat) : Option Instr :=
  match decode (tableWord nbits w) with
  | .ok i => some i
  | .error _ => none

end Sys2Proof
end

