-- ==== Sys2Proof/Machine/State.lean ====
section
/-! DEFINITION. The state of MSRXQ as plain data (10_state), the reasons a step can stop, and the state
after reset (10_state R38). -/

namespace Sys2Proof.Machine

/-- The Radio Mode, exactly one value active at a time (10_state R28). -/
inductive Mode where
  | rx
  | tx
  | sleep
  | standby
  | powerDown
deriving DecidableEq, Repr

/-- The response status ST; code 3 is never produced (30_encoding R92). -/
inductive Status where
  | done
  | none
  | illegal
deriving DecidableEq, Repr

/-- A response on RSP: status and result value (30_encoding R91). -/
structure Rsp where
  st : Status
  rv : Half
deriving DecidableEq, Repr

/-- The latched operands of a SEND (42_mode_ops R172). -/
structure SendOp where
  dest  : Byte
  len   : Byte
  noack : Bool
deriving DecidableEq, Repr

/-- Which micro-step of a MAIN operation comes next (10_state R34). -/
inductive Phase where
  /-- No operation is in progress. -/
  | idle
  /-- AVAILABLE, after a0 (40_queue_ops R124, polled line). -/
  | availA1
  /-- RECEIVE, after c0 found a frame (40_queue_ops R127). -/
  | recvC1
  /-- RECEIVE with L latched: before c2[i] while i < L, before c3 when i = L. -/
  | recvC2 (len : Byte) (i : Nat)
  /-- RECEIVE between c3 and c4. -/
  | recvC4 (len : Byte)
  /-- RECEIVE in direct mode with L and the bytes not yet emitted: before u1 while any are left, then
  before u2 (40_queue_ops R128). -/
  | directU (len : Byte) (rest : List Byte) (wantAck : Bool)
  /-- SEND, after s0 (42_mode_ops R172). -/
  | sendS1 (op : SendOp)
  /-- SEND before or held at s2, with the payload and the attempt count a. -/
  | sendS2 (op : SendOp) (data : List Byte) (a : Nat)
  /-- SEND before or held at s3. -/
  | sendS3 (op : SendOp) (data : List Byte) (a : Nat)
  /-- SEND before s4. -/
  | sendS4 (op : SendOp) (data : List Byte) (a : Nat)
deriving DecidableEq, Repr

/-- The operation a phase belongs to; `none` when no operation is in progress. -/
def Phase.instr : Phase → Option Instr
  | .idle => none
  | .availA1 => some .available
  | .recvC1 | .recvC2 _ _ | .recvC4 _ | .directU _ _ _ => some .receive
  | .sendS1 op | .sendS2 op _ _ | .sendS3 op _ _ | .sendS4 op _ _ =>
    some (.send op.dest op.len op.noack)

/-- A call of the collaborator, as an event (60_exceptions R246). -/
inductive ChipCall where
  /-- `CHIP.initialize(frequency, address, network_id)`. -/
  | initRadio (frequency : Nat) (addr : Byte) (networkId : Nat)
  | registerReceiveCallback
  /-- `CHIP.encrypt`; the key bytes are not recorded, MSRXQ keeps none of them (42_mode_ops R179). -/
  | encrypt
  | irqHousekeeping
  /-- `CHIP.read_frame(keep)` or `CHIP.read_frame(discard)`. -/
  | readFrame (keep : Bool)
  | dataReady
  | irqLine
  | startTransmit (dest : Byte) (data : List Byte) (len : Byte) (wantAck : Bool)
  | ackResult
  | sendAck
  | sleep
  | standBy
  | powerDown
  | powerUp
  | setAddress (addr : Byte)
  | setTxPowerLevel (level : Byte)
  | getTxPowerLevel
  | setTxPowerPercent (percent : Byte)
  | getTxPowerPercent
  /-- `CHIP.get_rssi(sending)` or `CHIP.get_rssi(receiving)`. -/
  | getRssi (sending : Bool)
  /-- `CHIP.get_snr(sending)` or `CHIP.get_snr(receiving)`. -/
  | getSnr (sending : Bool)
  | sanityCheck
deriving DecidableEq, Repr

/-- What comes next from outside (log 1): a word MAIN or CHIP presents, a turn of MAIN (the next
micro-step of the operation in progress), or `rst` asserted (70_reset R270). -/
inductive Input where
  | word (p : PortWord)
  | tick
  | rst
deriving DecidableEq, Repr

/-- SLOTMEM as (address, byte) pairs, addresses strictly rising and no byte equal to
`Memory.unlisted` (20_memory R60). -/
abbrev Memory := List Host.Cell

/-- What an address no pair lists reads as: the spec leaves the slots' reset contents unspecified
(10_state R38). DESIGN CHOICE, log 6. -/
def Memory.unlisted : Byte := 0

/-- The whole state: the registers and the slot file of 10_state, the phase, what stands on the ports,
and the collaborator's next answers. -/
structure State where
  /-- The parameters, fixed for the machine (log 2). -/
  cfg : Config
  /-- OCC (10_state R23). -/
  occ : Byte
  /-- HEAD (10_state R24). -/
  head : Byte
  /-- TAIL (10_state R25). -/
  tail : Byte
  /-- LOST (10_state R27). -/
  lost : Byte
  /-- MODE (10_state R28). -/
  mode : Mode
  /-- ADDR (10_state R29). -/
  addr : Byte
  /-- TXPEND (10_state R30). -/
  txpend : Bool
  /-- READY (10_state R31). -/
  ready : Bool
  /-- SLOTMEM, the slot file (10_state R20, 20_memory R60). -/
  mem : Memory
  /-- The operation phase (10_state R34). -/
  phase : Phase
  /-- What the outside does next (log 1). -/
  inputs : List Input
  /-- The bytes on TXD not yet taken (30_encoding R103). -/
  txd : List Byte
  /-- The responses so far, oldest first (30_encoding R91, 70_reset R281). -/
  rsp : List Rsp
  /-- The bytes emitted on RXD so far, oldest first (30_encoding R103, 70_reset R281). -/
  rxd : List Byte
  /-- The collaborator calls so far, oldest first (60_exceptions R246). -/
  calls : List ChipCall
  /-- The collaborator's next Boolean answers (log 4). -/
  bools : List Bool
  /-- The collaborator's next 16-bit answers (log 4). -/
  words : List Half
  /-- The next frames the collaborator delivers (log 4). -/
  frames : List ChipFrame
  /-- How many answers have been given (log 4). -/
  drawn : Nat
deriving DecidableEq, Repr

/-- Why the model stops. None of these is a behaviour of the hardware, which never stops (60_exceptions
R230); each is a case the spec says does not arise or leaves without a step. -/
inductive Fault where
  /-- Raised by the slot accesses of RECEIVE and of the handler: an address outside SLOTMEM, which 20_memory
  R62 says no access reaches; no state that meets the ring invariant raises it. Safe (log 8). -/
  | outsideSlotmem
  /-- Raised by SEND at s1 when fewer than `len` bytes stand on TXD: "stuck" (70_reset R276). Safe (log 10). -/
  | txdMissing
  /-- Raised by IRQ when the IRQ agent has no step (41_irq_handler R150, R155): "stuck" (93 U4). Unsafe if a chip
  breaks assumption F4 of 70_reset R280 (log 11). -/
  | irqNotEnabled
deriving DecidableEq, Repr

/-- What is not a move of the machine. -/
inductive Refusal where
  /-- Raised by `exec` for an instruction with no meaning yet. Safe. -/
  | notModelled (mnemonic : String)
  /-- Raised by a command given to `exec` while another operation is in progress: "not a move the model has"
  (70_reset R276, 30_encoding R104). Safe (log 12). -/
  | portBusy
  /-- Raised by the step for an event byte other than 0x80 and 0x81 (30_encoding R93). Safe (log 13). -/
  | notAnEvent (e : Byte)
deriving DecidableEq, Repr

/-- The state right after hardware reset with parameters `c` (10_state R38, 70_reset R270). ADDR and the
slots are unspecified there: log 5, log 6. -/
def State.resetWith (c : Config) : State where
  cfg := c
  occ := 0
  head := 0
  tail := 0
  lost := 0
  mode := .rx
  addr := 0
  txpend := false
  ready := false
  mem := []
  phase := .idle
  inputs := []
  txd := []
  rsp := []
  rxd := []
  calls := []
  bools := []
  words := []
  frames := []
  drawn := 0

/-- The machine right after reset, in configuration CFG-A of 95_test_vectors (log 2). -/
def State.reset : State := State.resetWith Config.cfgA

end Sys2Proof.Machine
end

