-- ==== Sys2Proof/Machine/Operands.lean ====
section
/-! DEFINITION. Result assembly in RV, the encodings of the response word and of MODE, and the named
constants of the range checks (30_encoding R91, R92, R98; 10_state R28; 00_scope R9; 93 U9). -/

namespace Sys2Proof.Machine

/-- A Boolean result: 1 for true, 0 for false (30_encoding R98, 00_scope R19). -/
def boolResult (b : Bool) : Half := if b then 1 else 0

/-- A byte result, zero-extended (30_encoding R98). -/
def byteResult (b : Byte) : Half := b.zeroExtend 16

/-- The 3-bit code of a Radio Mode (10_state R28). -/
def Mode.code : Mode → BitVec 3
  | .rx => 0
  | .tx => 1
  | .sleep => 2
  | .standby => 3
  | .powerDown => 4

/-- RX and TX are the active modes, the others the low-power modes (10_state R28). -/
def Mode.active : Mode → Bool
  | .rx | .tx => true
  | .sleep | .standby | .powerDown => false

/-- The 2-bit code ST (30_encoding R92). -/
def Status.code : Status → BitVec 2
  | .done => 0
  | .none => 1
  | .illegal => 2

/-- The 18-bit response word: ST in [17:16], RV in [15:0] (30_encoding R91). -/
def Rsp.word (r : Rsp) : BitVec 18 := r.st.code ++ r.rv

/-- `LOST_MAX` (00_scope R9). -/
def lostMax : Nat := 255

/-- The largest power level in range (43_facade_passthrough R202, 93 U9). -/
def txLevelMax : Nat := 23

/-- The largest power percentage in range (43_facade_passthrough R204). -/
def txPercentMax : Nat := 100

/-- `LOST <- min(LOST + 1, 255)` (41_irq_handler R153). -/
def lostSucc (lost : Byte) : Byte := BitVec.ofNat 8 (min (lost.toNat + 1) lostMax)

/-- `(index + 1) mod N`, the advance of HEAD and TAIL (10_state R24, R25). -/
def nextIndex (c : Config) (i : Byte) : Byte := BitVec.ofNat 8 ((i.toNat + 1) % c.n)

/-- The bytes of a delivered frame as the hardware takes them: the raw length is at most 255
(41_irq_handler R151) and the copy is capped at MAX_FRAME_LEN (R159; 40_queue_ops R128). -/
def cappedBytes (c : Config) (f : ChipFrame) : List Byte := (f.bytes.take 255).take c.maxFrameLen

/-- A frame length as the byte LEN (10_state R20). -/
def lenByte (bytes : List Byte) : Byte := BitVec.ofNat 8 bytes.length

end Sys2Proof.Machine
end

