-- ==== Sys2Proof/Machine/Flags.lean ====
section
/-! DEFINITION. The flags EMPTY, FULL, TXPEND, READY and the composite STATUS (10_state R32), and the
numbered control and status registers (10_state R33). -/

namespace Sys2Proof.Machine

/-- EMPTY, `Q.is_empty()` (10_state R32, 40_queue_ops R122). -/
def State.empty (s : State) : Bool := s.occ.toNat == 0

/-- FULL, `Q.is_full()` (10_state R32, 40_queue_ops R122). -/
def State.full (s : State) : Bool := s.occ.toNat == s.cfg.n

/-- STATUS: EMPTY in bit 0, FULL in bit 1, TXPEND in bit 2, READY in bit 3, bits 15..4 zero (10_state R32). -/
def statusWord (s : State) : Half :=
  (0 : BitVec 12) ++ BitVec.ofBool s.ready ++ BitVec.ofBool s.txpend ++ BitVec.ofBool s.full
    ++ BitVec.ofBool s.empty

/-- `CSR[k]`, zero-extended to 16 bits; `none` for an unpopulated number (10_state R33). -/
def csrRead (k : Byte) (s : State) : Option Half :=
  match k.toNat with
  | 0 => some (statusWord s)
  | 1 => some (byteResult s.occ)
  | 2 => some (byteResult s.lost)
  | 3 => some (s.mode.code.zeroExtend 16)
  | 4 => some (byteResult s.addr)
  | _ => none

end Sys2Proof.Machine
end

