-- ==== Sys2Proof/Machine/Ops.lean ====
section
/-! DEFINITION. The shared operations: the slot memory, the collaborator's calls and answers, responses,
the port's guard, the queue primitive `Q.push`, and taking the interrupt. -/

namespace Sys2Proof.Machine

/-- How a step ends. -/
abbrev Result := Host.Outcome State Fault Refusal

/-- Go on with `k` from a next state; a stop stays. -/
def andThen (r : Result) (k : State → Result) : Result :=
  match r with
  | .next t => k t
  | .fault f => .fault f
  | .refused x => .refused x

/-! ## SLOTMEM -/

/-- The byte at address `a` (20_memory R60). -/
def Memory.get : Memory → Nat → Byte
  | [], _ => Memory.unlisted
  | (b, v) :: m, a => if a = b then v else Memory.get m a

/-- Put byte `v` at address `a`, keeping the canonical form: a byte equal to what an unlisted address
reads as is not listed. -/
def Memory.set : Memory → Nat → Byte → Memory
  | [], a, v => if v = Memory.unlisted then [] else [(a, v)]
  | (b, w) :: m, a, v =>
    if a < b then
      if v = Memory.unlisted then (b, w) :: m else (a, v) :: (b, w) :: m
    else if a = b then
      if v = Memory.unlisted then m else (a, v) :: m
    else (b, w) :: Memory.set m a v

/-- The addresses of a memory rise from above `low`, and no listed byte is the unlisted one. -/
def Memory.wfAbove : Memory → Nat → Bool
  | [], _ => true
  | (a, v) :: m, low => decide (low ≤ a) && decide (v ≠ Memory.unlisted) && Memory.wfAbove m (a + 1)

/-- The canonical form. -/
def Memory.wf (m : Memory) : Bool := Memory.wfAbove m 0

/-- Every listed address lies in SLOTMEM (20_memory R60). -/
def Memory.inside (m : Memory) (size : Nat) : Bool := m.all fun cell => decide (cell.1 < size)

/-- `MemRead(a, 1)`; `none` outside SLOTMEM (00_scope R17, 20_memory R60, R62). -/
def memRead (a : Nat) (s : State) : Option Byte :=
  if a < s.cfg.memSize then some (s.mem.get a) else none

/-- The address of `SLOT[i].LEN` (20_memory R60). -/
def slotLenAddr (c : Config) (i : Nat) : Nat := i * c.slotSize

/-- The address of `SLOT[i].DATA[j]` (20_memory R60). -/
def slotDataAddr (c : Config) (i j : Nat) : Nat := i * c.slotSize + 1 + j

/-- Read `SLOT[i].LEN` (00_scope R17). -/
def readSlotLen (i : Nat) (s : State) : Option Byte := memRead (slotLenAddr s.cfg i) s

/-- Read `SLOT[i].DATA[j]`; a byte index is below MAX_FRAME_LEN (00_scope R17, 20_memory R62). -/
def readSlotData (i j : Nat) (s : State) : Option Byte :=
  if j < s.cfg.maxFrameLen then memRead (slotDataAddr s.cfg i j) s else none

/-- `MemWrite` of consecutive bytes from address `a` on, one byte each (00_scope R17, 20_memory R62). -/
def Memory.setBytes : Memory → Nat → List Byte → Memory
  | m, _, [] => m
  | m, a, b :: bs => Memory.setBytes (m.set a b) (a + 1) bs

/-- Write `SLOT[i]` completely: LEN and the payload bytes, none beyond; `none` when the slot is outside
SLOTMEM (40_queue_ops R120 p1, 10_state R22). A payload of at most MAX_FRAME_LEN bytes stays in its slot. -/
def writeSlot (i : Nat) (bytes : List Byte) (s : State) : Option State :=
  if i < s.cfg.n then
    some { s with
      mem := (s.mem.set (slotLenAddr s.cfg i) (lenByte bytes)).setBytes (slotDataAddr s.cfg i 0) bytes }
  else none

/-! ## The collaborator -/

/-- Record a call of the collaborator (60_exceptions R246). -/
def State.record (c : ChipCall) (s : State) : State := { s with calls := s.calls ++ [c] }

/-- The collaborator's next Boolean answer (log 4). -/
def State.nextBool (s : State) : Bool :=
  match s.bools with
  | b :: _ => b
  | [] => Config.freeBool s.drawn

/-- After a Boolean answer. -/
def State.dropBool (s : State) : State := { s with bools := s.bools.tail, drawn := s.drawn + 1 }

/-- The collaborator's next 16-bit answer (log 4). -/
def State.nextHalf (s : State) : Half :=
  match s.words with
  | w :: _ => w
  | [] => Config.freeHalf s.drawn

/-- After a 16-bit answer. -/
def State.dropHalf (s : State) : State := { s with words := s.words.tail, drawn := s.drawn + 1 }

/-- The frame the collaborator delivers next (log 4). -/
def State.nextFrame (s : State) : ChipFrame :=
  match s.frames with
  | f :: _ => f
  | [] => Config.freeFrame s.drawn

/-- After a frame was drained. -/
def State.dropFrame (s : State) : State := { s with frames := s.frames.tail, drawn := s.drawn + 1 }

/-- `CHIP.read_frame(keep|discard)`: one frame is drained either way (41_irq_handler R157). -/
def readFrame (keep : Bool) (s : State) : ChipFrame × State :=
  (s.nextFrame, (s.dropFrame).record (.readFrame keep))

/-- A call answered by a Boolean. -/
def askBool (c : ChipCall) (s : State) : Bool × State := (s.nextBool, (s.dropBool).record c)

/-- A call answered by a signed 16-bit value. -/
def askHalf (c : ChipCall) (s : State) : Half × State := (s.nextHalf, (s.dropHalf).record c)

/-! ## Responses and the port -/

/-- `respond(ST, RV)`: the operation ends with one response (00_scope R17, R18). -/
def respond (st : Status) (rv : Half) (s : State) : Result :=
  .next { s with phase := .idle, rsp := s.rsp ++ [⟨st, rv⟩] }

/-- The answer of a command that is not accepted: ST = ILLEGAL, RV = 0 (30_encoding R92). -/
def respondIllegal (s : State) : Result := respond .illegal 0 s

/-- Another micro-step of the operation follows. -/
def goto (p : Phase) (s : State) : Result := .next { s with phase := p }

/-- The CMD port takes one command at a time (30_encoding R104): a micro-step of `i` is taken when no
operation is in progress or `i` is the one in progress. -/
def onPort (i : Instr) (s : State) (k : Result) : Result :=
  match s.phase.instr with
  | none => k
  | some j => if j = i then k else .refused .portBusy

/-! ## The queue and the interrupt -/

/-- `Q.push(len, bytes) -> bool` in the producer order p0 .. p3; `none` when the slot is outside SLOTMEM
(40_queue_ops R120, 20_memory R68). LOST is not touched (90 C1). -/
def qPush (bytes : List Byte) (s : State) : Option (Bool × State) :=
  if s.full then some (false, s)
  else
    match writeSlot s.tail.toNat bytes s with
    | some t =>
      some (true, { t with
        tail := nextIndex s.cfg s.tail
        occ := BitVec.ofNat 8 (s.occ.toNat + 1) })
    | none => none

/-- The handler can be invoked: there is one only in buffered mode (00_scope R10, decision D28), it is
registered (10_state R31) and MODE is active (41_irq_handler R155). -/
def State.handlerInUse (s : State) : Bool := s.cfg.buffered && s.ready && s.mode.active

/-- The IRQ agent has a step, its line being asserted (41_irq_handler R150). -/
def State.irqEnabled (s : State) : Bool := !s.cfg.irqPolled && s.handlerInUse

/-- The RX path h1, h2 of the handler, the housekeeping having answered `frameReady`: test OCC, then
drain the frame into the slot, or drain it, discard it and count it (41_irq_handler R151 to R153). -/
def handlerRx (frameReady : Bool) (s : State) : Result :=
  if frameReady then
    if s.occ.toNat < s.cfg.n then
      let (frame, s1) := readFrame true s
      match qPush (cappedBytes s.cfg frame) s1 with
      | some (_, t) => .next t
      | none => .fault .outsideSlotmem
    else
      let (_, s1) := readFrame false s
      .next { s1 with lost := lostSucc s1.lost }
  else .next s

/-- The TX path h3 of the handler: the pending send is complete (41_irq_handler R154). -/
def handlerTx (s : State) : Result := .next { s with txpend := false, mode := .rx }

/-- TAKING THE INTERRUPT: one invocation of the Interrupt Receive Handler (41_irq_handler R151). Entry
saves nothing and changes no state by itself (60_exceptions R243), so the operation in progress keeps its
phase; the handler tells the two causes apart by MODE alone (R238); its return restores nothing (R244).
In the low-power modes no invocation occurs (R155). -/
def takeInterrupt (frameReady : Bool) (s : State) : Result :=
  match s.mode with
  | .rx => handlerRx frameReady (s.record .irqHousekeeping)
  | .tx => handlerTx s
  | .sleep | .standby | .powerDown => .fault .irqNotEnabled

/-- `poll_service()`: with the handler in use, READY = 1 and MODE active the line is read, and if it is
asserted one invocation is performed, its F being the housekeeping's answer (40_queue_ops R125, 00_scope
R10; log 14, log 15). -/
def pollService (s : State) : Result :=
  if s.handlerInUse then
    let (asserted, s1) := askBool .irqLine s
    if asserted then
      match s1.mode with
      | .rx => takeInterrupt s1.nextBool s1.dropBool
      | .tx | .sleep | .standby | .powerDown => takeInterrupt false s1
    else .next s1
  else .next s

/-- A SEND that is held: MAIN has no step until the handler's TX path lifts the hold; on a polled line
SEND itself polls (42_mode_ops R172; log 9, log 26). In direct mode there is no handler (log 14). -/
def held (s : State) : Result := if s.cfg.irqPolled then pollService s else .next s

end Sys2Proof.Machine
end

