-- ==== Sys2Proof/Machine/Facade.lean ====
section
/-! DEFINITION. The Address register and the pass-through operations SETADDR .. SANITY: one micro-step
each, accepted in every MODE and with READY 0 or 1 (43_facade_passthrough). -/

namespace Sys2Proof.Machine

/-- SETADDR: the address is cached and pushed to the chip (43_facade_passthrough R200). -/
def execSetaddr (addr : Byte) (s : State) : Result :=
  onPort (.setaddr addr) s <| respond .done 0 { s.record (.setAddress addr) with addr := addr }

/-- GETADDR: the local copy (43_facade_passthrough R201). -/
def execGetaddr (s : State) : Result := onPort .getaddr s <| respond .done (byteResult s.addr) s

/-- Range-checked forwarding of a setting: an unsupported variant, or a value above `bound`, answers
false and forwards nothing (43_facade_passthrough R202, R204). -/
def forwardSetting (supported : Bool) (bound : Nat) (v : Byte) (call : ChipCall) (s : State) : Result :=
  if !supported then respond .done 0 s
  else if bound < v.toNat then respond .done 0 s
  else
    let (ok, s1) := askBool call s
    respond .done (boolResult ok) s1

/-- A telemetry or power query: the collaborator's signed 16-bit value, or the sentinel on a variant
that cannot give it (43_facade_passthrough R203, R205 to R209, R211, R212). -/
def forwardQuery (supported : Bool) (sentinel : Half) (call : ChipCall) (s : State) : Result :=
  if supported then
    let (v, s1) := askHalf call s
    respond .done v s1
  else respond .done sentinel s

/-- SETTXLVL (43_facade_passthrough R202). -/
def execSettxlvl (level : Byte) (s : State) : Result :=
  onPort (.settxlvl level) s <|
    forwardSetting s.cfg.hasTxLevel txLevelMax level (.setTxPowerLevel level) s

/-- GETTXLVL (43_facade_passthrough R203). -/
def execGettxlvl (s : State) : Result :=
  onPort .gettxlvl s <| forwardQuery s.cfg.hasTxLevel s.cfg.invalidLevel .getTxPowerLevel s

/-- SETTXPCT (43_facade_passthrough R204). -/
def execSettxpct (percent : Byte) (s : State) : Result :=
  onPort (.settxpct percent) s <|
    forwardSetting s.cfg.hasTxPercent txPercentMax percent (.setTxPowerPercent percent) s

/-- GETTXPCT (43_facade_passthrough R205). -/
def execGettxpct (s : State) : Result :=
  onPort .gettxpct s <| forwardQuery s.cfg.hasTxPercent s.cfg.invalidPercent .getTxPowerPercent s

/-- GETSRSSI (43_facade_passthrough R206). -/
def execGetsrssi (s : State) : Result :=
  onPort .getsrssi s <| forwardQuery s.cfg.hasRssiTx s.cfg.invalidRssi (.getRssi true) s

/-- GETRRSSI (43_facade_passthrough R207). -/
def execGetrrssi (s : State) : Result :=
  onPort .getrrssi s <| forwardQuery s.cfg.hasRssiRx s.cfg.invalidRssi (.getRssi false) s

/-- GETSSNR (43_facade_passthrough R208). -/
def execGetssnr (s : State) : Result :=
  onPort .getssnr s <| forwardQuery s.cfg.hasSnrTx s.cfg.invalidSnr (.getSnr true) s

/-- GETRSNR (43_facade_passthrough R209). -/
def execGetrsnr (s : State) : Result :=
  onPort .getrsnr s <| forwardQuery s.cfg.hasSnrRx s.cfg.invalidSnr (.getSnr false) s

/-- SANITY: forwards to the collaborator's self-test; MSRXQ changes nothing on its own
(43_facade_passthrough R210). -/
def execSanity (s : State) : Result :=
  onPort .sanity s <|
    let (ok, s1) := askBool .sanityCheck s
    respond .done (boolResult ok) s1

end Sys2Proof.Machine
end

