-- ==== Sys2Proof/Machine/Handler.lean ====
section
/-! DEFINITION. IRQ, one invocation of the Interrupt Receive Handler (41_irq_handler). -/

namespace Sys2Proof.Machine

/-- IRQ: the collaborator asserts the line, its housekeeping reporting F (41_irq_handler R151, 30_encoding
R93). The IRQ agent has a step exactly under R150; elsewhere the model has none (93 U4, log 11). -/
def execIrq (frameReady : Bool) (s : State) : Result :=
  if s.irqEnabled then takeInterrupt frameReady s else .fault .irqNotEnabled

end Sys2Proof.Machine
end

