-- ==== Sys2Proof/Machine/ModeOps.lean ====
section
/-! DEFINITION. INIT, SEND, SLEEP, STANDBY, POWERDOWN, POWERUP: the Radio Mode state machine
(42_mode_ops). -/

namespace Sys2Proof.Machine

/-- The opaque work of INIT that MSRXQ can see as a call: with ENCRYPTION the key is provisioned. Whether
that is attempted after a failed `initialize` is not said and is left free (42_mode_ops R179; log 16). -/
def provisionKey (ok : Bool) (s : State) : State :=
  if s.cfg.encryption then
    if ok then s.record .encrypt
    else if s.nextBool then (s.dropBool).record .encrypt else s.dropBool
  else s

/-- The handler is registered when the queue is in use (42_mode_ops R171). -/
def registerHandler (s : State) : State :=
  if s.cfg.buffered then s.record .registerReceiveCallback else s

/-- What INIT leaves: on success MODE = RX, TXPEND = 0, READY = 1 and the handler registered; on failure
READY = 0 and nothing else (42_mode_ops R171). -/
def afterInit (ok : Bool) (s : State) : State :=
  if ok then registerHandler { s with mode := .rx, txpend := false, ready := true }
  else { s with ready := false }

/-- INIT (42_mode_ops R171). -/
def execInit (s : State) : Result :=
  onPort .init s <|
    let (ok, s1) := askBool (.initRadio s.cfg.frequency s.addr s.cfg.networkId) s
    respond .done (boolResult ok) (afterInit ok (provisionKey ok s1))

/-- s0: what is not accepted (42_mode_ops R172, R177; 60_exceptions R236 c, d, e). -/
def sendRejected (len : Byte) (s : State) : Bool :=
  !s.ready || !s.mode.active || decide (s.cfg.maxFrameLen < len.toNat)

/-- s0 (42_mode_ops R172). -/
def sendS0 (op : SendOp) (s : State) : Result :=
  if sendRejected op.len s then respondIllegal s else goto (.sendS1 op) s

/-- s1: the payload is taken from TXD; a SEND whose bytes are missing is stuck (42_mode_ops R172,
70_reset R276; log 10). -/
def sendS1 (op : SendOp) (s : State) : Result :=
  if s.txd.length < op.len.toNat then .fault .txdMissing
  else
    .next { s with
      txd := s.txd.drop op.len.toNat
      phase := .sendS2 op (s.txd.take op.len.toNat) 0 }

/-- s2: held until MODE = RX, then the attempt starts; without acknowledgment the operation ends here
(42_mode_ops R172). -/
def sendS2 (op : SendOp) (data : List Byte) (a : Nat) (s : State) : Result :=
  match s.mode with
  | .rx =>
    let t := { s.record (.startTransmit op.dest data op.len (!op.noack)) with
      mode := .tx, txpend := true }
    if op.noack then respond .done 1 t else goto (.sendS3 op data a) t
  | .tx | .sleep | .standby | .powerDown => held s

/-- s3: held until TXPEND = 0 (42_mode_ops R172). -/
def sendS3 (op : SendOp) (data : List Byte) (a : Nat) (s : State) : Result :=
  if s.txpend then held s else goto (.sendS4 op data a) s

/-- s4: the collaborator's answer, and the bounded retry (42_mode_ops R172, R178). -/
def sendS4 (op : SendOp) (data : List Byte) (a : Nat) (s : State) : Result :=
  let (acked, s1) := askBool .ackResult s
  if acked then respond .done 1 s1
  else if a < s.cfg.retries then goto (.sendS2 op data (a + 1)) s1
  else respond .done 0 s1

/-- SEND (42_mode_ops R172). -/
def execSend (dest len : Byte) (noack : Bool) (s : State) : Result :=
  onPort (.send dest len noack) s <|
    match s.phase with
    | .sendS1 op => sendS1 op s
    | .sendS2 op data a => sendS2 op data a s
    | .sendS3 op data a => sendS3 op data a s
    | .sendS4 op data a => sendS4 op data a s
    | _ => sendS0 ⟨dest, len, noack⟩ s

/-- Entry into a low-power mode, shared by SLEEP, STANDBY and POWERDOWN: legal from RX and TX with
READY = 1; a pending send is abandoned (42_mode_ops R173 to R175, R177). -/
def enterLowPower (call : ChipCall) (target : Mode) (s : State) : Result :=
  if s.ready && s.mode.active then
    respond .done 0 { s.record call with mode := target, txpend := false }
  else respondIllegal s

/-- SLEEP (42_mode_ops R173). -/
def execSleep (s : State) : Result := onPort .sleep s <| enterLowPower .sleep .sleep s

/-- STANDBY (42_mode_ops R174). -/
def execStandby (s : State) : Result := onPort .standby s <| enterLowPower .standBy .standby s

/-- POWERDOWN (42_mode_ops R175). -/
def execPowerdown (s : State) : Result :=
  onPort .powerdown s <| enterLowPower .powerDown .powerDown s

/-- POWERUP: leaves a low-power mode; in RX and TX only the call is forwarded (42_mode_ops R176). -/
def execPowerup (s : State) : Result :=
  onPort .powerup s <|
    if s.ready then
      let s1 := s.record .powerUp
      respond .done 0 (if s.mode.active then s1 else { s1 with mode := .rx })
    else respondIllegal s

end Sys2Proof.Machine
end

