-- ==== Sys2Proof/Machine/Queue.lean ====
section
/-! DEFINITION. AVAILABLE, RECEIVE, QEMPTY, QFULL, RDCSR (40_queue_ops). Each definition is one
micro-step of the operation: the one its phase says comes next. -/

namespace Sys2Proof.Machine

/-- a1: `n <- OCC ; respond(DONE, n != 0)` (40_queue_ops R124). -/
def availableAnswer (s : State) : Result := respond .done (boolResult (!s.empty)) s

/-- u0: the collaborator's `data_ready` query (40_queue_ops R126). -/
def availableDirect (s : State) : Result :=
  let (ready, s1) := askBool .dataReady s
  respond .done (boolResult ready) s1

/-- AVAILABLE (40_queue_ops R124 to R126). -/
def execAvailable (s : State) : Result :=
  onPort .available s <|
    match s.phase with
    | .availA1 => availableAnswer s
    | _ =>
      if s.cfg.buffered then
        if s.cfg.irqPolled then andThen (pollService s) (goto .availA1) else availableAnswer s
      else availableDirect s

/-- c0: stop if OCC = 0 (40_queue_ops R127). -/
def receiveC0 (s : State) : Result := if s.empty then respond .none 0 s else goto .recvC1 s

/-- c1: `L <- SLOT[HEAD].LEN` (40_queue_ops R127). -/
def receiveC1 (s : State) : Result :=
  match readSlotLen s.head.toNat s with
  | some len => goto (.recvC2 len 0) s
  | none => .fault .outsideSlotmem

/-- c2[i]: `RXD.put(SLOT[HEAD].DATA[i])` (40_queue_ops R127). -/
def receiveC2 (len : Byte) (i : Nat) (s : State) : Result :=
  match readSlotData s.head.toNat i s with
  | some b => .next { s with rxd := s.rxd ++ [b], phase := .recvC2 len (i + 1) }
  | none => .fault .outsideSlotmem

/-- c3: advance HEAD (40_queue_ops R127). -/
def receiveC3 (len : Byte) (s : State) : Result :=
  .next { s with head := nextIndex s.cfg s.head, phase := .recvC4 len }

/-- c4: `atomic { OCC <- OCC - 1 } respond(DONE, L)` (40_queue_ops R127). -/
def receiveC4 (len : Byte) (s : State) : Result :=
  respond .done (byteResult len) { s with occ := BitVec.ofNat 8 (s.occ.toNat - 1) }

/-- u0 of direct mode: read the chip's frame, capped (40_queue_ops R128). -/
def receiveDirectU0 (s : State) : Result :=
  let (frame, s1) := readFrame true s
  let bytes := cappedBytes s.cfg frame
  goto (.directU (lenByte bytes) bytes frame.wantAck) s1

/-- u1[i] and u2 of direct mode (40_queue_ops R128). -/
def receiveDirectU (len : Byte) (rest : List Byte) (wantAck : Bool) (s : State) : Result :=
  match rest with
  | b :: bs => .next { s with rxd := s.rxd ++ [b], phase := .directU len bs wantAck }
  | [] => respond .done (byteResult len) (if wantAck then s.record .sendAck else s)

/-- RECEIVE (40_queue_ops R127, R128). -/
def execReceive (s : State) : Result :=
  onPort .receive s <|
    match s.phase with
    | .recvC1 => receiveC1 s
    | .recvC2 len i => if i < len.toNat then receiveC2 len i s else receiveC3 len s
    | .recvC4 len => receiveC4 len s
    | .directU len rest wantAck => receiveDirectU len rest wantAck s
    | _ => if s.cfg.buffered then receiveC0 s else receiveDirectU0 s

/-- QEMPTY (40_queue_ops R129). -/
def execQempty (s : State) : Result := onPort .qempty s <| respond .done (boolResult s.empty) s

/-- QFULL (40_queue_ops R130). -/
def execQfull (s : State) : Result := onPort .qfull s <| respond .done (boolResult s.full) s

/-- RDCSR k: one atomic sample; an unpopulated number is ILLEGAL (40_queue_ops R131). -/
def execRdcsr (k : Byte) (s : State) : Result :=
  onPort (.rdcsr k) s <|
    match csrRead k s with
    | some v => respond .done v s
    | none => respondIllegal s

end Sys2Proof.Machine
end

