-- ==== Sys2Proof/Machine/Dispatch.lean ====
section
/-! DEFINITION. One arm per constructor of Instr: one micro-step of the operation, or one handler
invocation. -/

namespace Sys2Proof.Machine

def exec (i : Instr) (s : State) : Host.Outcome State Fault Refusal :=
  match i with
  | .available => Sys2Proof.Machine.execAvailable s
  | .receive => Sys2Proof.Machine.execReceive s
  | .qempty => Sys2Proof.Machine.execQempty s
  | .qfull => Sys2Proof.Machine.execQfull s
  | .rdcsr k => Sys2Proof.Machine.execRdcsr k s
  | .init => Sys2Proof.Machine.execInit s
  | .send dest len noack => Sys2Proof.Machine.execSend dest len noack s
  | .sleep => Sys2Proof.Machine.execSleep s
  | .standby => Sys2Proof.Machine.execStandby s
  | .powerdown => Sys2Proof.Machine.execPowerdown s
  | .powerup => Sys2Proof.Machine.execPowerup s
  | .setaddr addr => Sys2Proof.Machine.execSetaddr addr s
  | .getaddr => Sys2Proof.Machine.execGetaddr s
  | .settxlvl level => Sys2Proof.Machine.execSettxlvl level s
  | .gettxlvl => Sys2Proof.Machine.execGettxlvl s
  | .settxpct percent => Sys2Proof.Machine.execSettxpct percent s
  | .gettxpct => Sys2Proof.Machine.execGettxpct s
  | .getsrssi => Sys2Proof.Machine.execGetsrssi s
  | .getrrssi => Sys2Proof.Machine.execGetrrssi s
  | .getssnr => Sys2Proof.Machine.execGetssnr s
  | .getrsnr => Sys2Proof.Machine.execGetrsnr s
  | .sanity => Sys2Proof.Machine.execSanity s
  | .irq frameReady => Sys2Proof.Machine.execIrq frameReady s

end Sys2Proof.Machine
end

