-- ==== Sys2Proof/Machine/Sequencer.lean ====
section
/-! DEFINITION. Which agent moves next and what it does: MAIN's micro-steps, the acceptance of a command
word, an interrupt event, reset (20_memory R66, R67; 30_encoding R104; 70_reset R270). -/

namespace Sys2Proof.Machine

/-- MAIN's turn: the next micro-step of the operation in progress; with none in progress the hardware is
idle and waits (10_state R34, R38). -/
def mainStep (s : State) : Result :=
  match s.phase.instr with
  | some i => exec i s
  | none => .next s

/-- A command word is accepted: sampled once, decoded, its first micro-step taken; a reserved opcode is
answered ILLEGAL with nothing changed (30_encoding R96, R104). -/
def acceptCommand (w : CmdWord) (s : State) : Result :=
  match decode (.cw w) with
  | .ok i => exec i s
  | .error _ => respondIllegal s

/-- An interrupt, named by its event byte (30_encoding R93). -/
def takeEvent (e : Byte) (s : State) : Result :=
  match decode (.ev e) with
  | .ok i => exec i s
  | .error _ => .refused (.notAnEvent e)

/-- `rst` asserted: every register at the value of 10_state R38, an operation in progress abandoned
without a response, what was emitted stays emitted (70_reset R270, R271). ADDR is unspecified: a free
value (log 5). The slots are unspecified: as in `State.reset` (log 6). The environment's side (what it has
on TXD, its answers, its further inputs) and the port records are not reset. -/
def hardwareReset (s : State) : State :=
  { s with
    occ := 0
    head := 0
    tail := 0
    lost := 0
    mode := .rx
    addr := Config.freeByte s.drawn
    txpend := false
    ready := false
    mem := []
    phase := .idle
    drawn := s.drawn + 1 }

/-- One step. The next input says who moves (log 1). A command word that stands next while an operation
is in progress is not accepted and stays; MAIN goes on with its operation (30_encoding R104; log 12). With
no input left the outside is silent and MAIN has every turn (log 22). -/
def nextStep (s : State) : Result :=
  match s.inputs with
  | [] => mainStep s
  | .tick :: rest => mainStep { s with inputs := rest }
  | .rst :: rest => .next (hardwareReset { s with inputs := rest })
  | .word (.ev e) :: rest => takeEvent e { s with inputs := rest }
  | .word (.cw w) :: rest =>
    match s.phase with
    | .idle => acceptCommand w { s with inputs := rest }
    | _ => mainStep s

/-- Present `p` as the very next input, with what its acceptance takes: for a command, no operation in
progress (30_encoding R104); for an event, the conditions of 41_irq_handler R150 (log 21). -/
def presentWord (p : PortWord) (s : State) : State :=
  match p with
  | .cw w => { s with phase := .idle, inputs := .word (.cw w) :: s.inputs }
  | .ev e =>
    { s with
      cfg := { s.cfg with buffered := true, irqPolled := false }
      ready := true
      mode := if s.mode.active then s.mode else .rx
      inputs := .word (.ev e) :: s.inputs }

end Sys2Proof.Machine
end

