-- ==== Sys2Proof/Machine/Step.lean ====
section
/-! DEFINITION. The step and the host's way to present one word. -/

namespace Sys2Proof.Machine

/-- One step of the machine: one MAIN micro-step, one handler invocation, or reset. -/
def step (s : State) : Host.Outcome State Fault Refusal := nextStep s

/-- `s` with the word of an opcode-table row presented as the very next input (log 21). -/
def State.withFetchWord (s : State) (nbits w : Nat) : State := presentWord (tableWord nbits w) s

end Sys2Proof.Machine
end

