-- ==== Sys2Proof/Safety.lean ====
section
/-! DEFINITION. What a good state is and the terms the statements use: the ring invariants of 10_state
R26 and R39, the abstract queue, runs of several steps. -/

namespace Sys2Proof.Machine

/-- `r` of 10_state R26: 1 while a RECEIVE stands between c3 and c4, else 0. -/
def State.popPending (s : State) : Nat :=
  match s.phase with
  | .recvC4 _ => 1
  | _ => 0

/-- `(HEAD - r + k) mod N`: the slot of the k-th oldest frame (10_state R26). -/
def State.slotIndex (s : State) (k : Nat) : Nat :=
  (s.head.toNat + s.cfg.n - s.popPending + k) % s.cfg.n

/-- `SLOT[i].LEN` as the memory holds it. -/
def State.slotLen (s : State) (i : Nat) : Byte := s.mem.get (slotLenAddr s.cfg i)

/-- `SLOT[i].DATA[j]` as the memory holds it. -/
def State.slotByte (s : State) (i j : Nat) : Byte := s.mem.get (slotDataAddr s.cfg i j)

/-- The frame in slot `i`: its first LEN bytes. -/
def State.slotFrame (s : State) (i : Nat) : List Byte :=
  (List.range (s.slotLen i).toNat).map (s.slotByte i)

/-- The abstract queue content, oldest first (10_state R26). -/
def State.queue (s : State) : List (List Byte) :=
  (List.range s.occ.toNat).map fun k => s.slotFrame (s.slotIndex k)

/-- The payload of a delivered frame that the hardware takes: at most MAX_FRAME_LEN bytes
(41_irq_handler R159). -/
def State.framePayload (s : State) : List Byte := (s.nextFrame.bytes.take 255).take s.cfg.maxFrameLen

/-- What each phase of an operation in progress says of the registers. -/
def State.phaseInv (s : State) : Prop :=
  match s.phase with
  | .idle => True
  | .availA1 => s.cfg.buffered = true ∧ s.cfg.irqPolled = true
  | .recvC1 => s.cfg.buffered = true ∧ 0 < s.occ.toNat
  | .recvC2 len i =>
    s.cfg.buffered = true ∧ 0 < s.occ.toNat ∧ len = s.slotLen s.head.toNat ∧ i ≤ len.toNat
  | .recvC4 len => s.cfg.buffered = true ∧ 0 < s.occ.toNat ∧ len = s.slotLen (s.slotIndex 0)
  | .directU len rest _ =>
    s.cfg.buffered = false ∧ rest.length ≤ len.toNat ∧ len.toNat ≤ s.cfg.maxFrameLen
  | .sendS1 op => s.ready = true ∧ s.mode.active = true ∧ op.len.toNat ≤ s.cfg.maxFrameLen
  | .sendS2 op data a =>
    s.ready = true ∧ s.mode.active = true ∧ op.len.toNat ≤ s.cfg.maxFrameLen ∧
      data.length = op.len.toNat ∧ a ≤ s.cfg.retries
  | .sendS3 op data a =>
    s.ready = true ∧ s.mode.active = true ∧ op.len.toNat ≤ s.cfg.maxFrameLen ∧
      data.length = op.len.toNat ∧ a ≤ s.cfg.retries ∧ op.noack = false
  | .sendS4 op data a =>
    s.ready = true ∧ s.mode = .rx ∧ op.len.toNat ≤ s.cfg.maxFrameLen ∧
      data.length = op.len.toNat ∧ a ≤ s.cfg.retries ∧ op.noack = false

/-- The invariants of every reachable state (10_state R39 I1 to I4 and I7, with 00_scope R7, R8 and the
canonical form of the memory). I5's bound and I6 hold by type. -/
structure State.Inv (s : State) : Prop where
  /-- 1 ≤ N, MAX_FRAME_LEN ≤ 255 (00_scope R7, R8). -/
  config : s.cfg.wellFormed = true
  /-- I1. -/
  occ_le : s.occ.toNat ≤ s.cfg.n
  /-- I2. -/
  head_lt : s.head.toNat < s.cfg.n
  /-- I2. -/
  tail_lt : s.tail.toNat < s.cfg.n
  /-- I3: TAIL = (HEAD - r + OCC) mod N. -/
  ring : s.tail.toNat = s.slotIndex s.occ.toNat
  /-- I4: every occupied slot has LEN ≤ MAX_FRAME_LEN. -/
  lens : ∀ k, k < s.occ.toNat → (s.slotLen (s.slotIndex k)).toNat ≤ s.cfg.maxFrameLen
  /-- I7: TXPEND = 1 exactly when MODE = TX. -/
  pending : s.txpend = true ↔ s.mode = .tx
  /-- The memory is in its canonical form. -/
  memory : s.mem.wf = true
  /-- Every listed byte lies in SLOTMEM. -/
  memory_inside : s.mem.inside s.cfg.memSize = true
  /-- The phase agrees with the registers. -/
  phase : s.phaseInv

/-- `k` steps of the machine, stopping at the first stop. -/
def stepTimes : Nat → State → Result
  | 0, s => .next s
  | k + 1, s => andThen (step s) (stepTimes k)

/-- How many calls in a record read a frame and keep it, or discard it. -/
def readCount (keep : Bool) (calls : List ChipCall) : Nat := calls.count (.readFrame keep)

/-- The next input asserts `rst`. -/
def State.resetNext (s : State) : Prop := s.inputs.head? = some .rst

/-- The next input is an interrupt event. -/
def State.eventNext (s : State) : Prop := ∃ e rest, s.inputs = .word (.ev e) :: rest

/-- The next step accepts the command `i` (30_encoding R104). -/
def State.accepts (s : State) (i : Sys2Proof.Instr) : Prop :=
  s.phase = .idle ∧ ∃ w rest, s.inputs = .word (.cw w) :: rest ∧ decodeCommand w = .ok i

/-- The operations of 43_facade_passthrough: SETADDR, GETADDR and the pass-through operations. -/
def isFacade : Sys2Proof.Instr → Bool
  | .setaddr _ | .getaddr | .settxlvl _ | .gettxlvl | .settxpct _ | .gettxpct | .getsrssi | .getrrssi
  | .getssnr | .getrsnr | .sanity => true
  | .available | .receive | .qempty | .qfull | .rdcsr _ | .init | .send _ _ _ | .sleep | .standby
  | .powerdown | .powerup | .irq _ => false

/-- An operation of the MAIN port; the others are interrupts. -/
def isMain : Sys2Proof.Instr → Bool
  | .irq _ => false
  | .available | .receive | .qempty | .qfull | .rdcsr _ | .init | .send _ _ _ | .sleep | .standby
  | .powerdown | .powerup | .setaddr _ | .getaddr | .settxlvl _ | .gettxlvl | .settxpct _ | .gettxpct
  | .getsrssi | .getrrssi | .getssnr | .getrsnr | .sanity => true

end Sys2Proof.Machine
end

