-- ==== Sys2Proof/Certificates/Slice0/Obligations.lean ====
section
/-! DEFINITION. The statements for the provers. Every one holds in every configuration `s.cfg` (log 2) and
for every answer of the collaborator (log 4): an answer is written `s.nextBool`, `s.nextHalf` or
`s.nextFrame`, whatever it is. A statement of a full next state says also what stays unchanged. -/

open Sys2Proof Sys2Proof.Machine

/-! ## Encoding -/

/-- R90, R93 to R95: decoding the word of any instruction, at every operand value, gives it back. -/
def Obligations.DecodeEncodeRoundTrip : Prop := ∀ i : Instr, decode (encode i) = .ok i

/-- R97: a word that agrees on the bits the operation reads is the same operation. -/
def Obligations.UnusedOperandBitsIgnored : Prop :=
  ∀ (w w' : CmdWord) (i : Instr), decodeCommand w = .ok i →
    w' &&& i.usedBits = w &&& i.usedBits → decodeCommand w' = .ok i

/-- R96, first sentence: exactly the opcodes outside the map of R95 are reserved. -/
def Obligations.ReservedOpcodesExactly : Prop :=
  ∀ w : CmdWord, (∃ e, decodeCommand w = .error e) ↔
    (w.toNat % 256 = 0 ∨ (0x06 ≤ w.toNat % 256 ∧ w.toNat % 256 ≤ 0x0F) ∨
      (0x16 ≤ w.toNat % 256 ∧ w.toNat % 256 ≤ 0x1F) ∨ 0x2B ≤ w.toNat % 256)

/-- R96: a reserved opcode, and RDCSR of an unpopulated number, is answered `ILLEGAL 0` and nothing else
happens: no state changes, nothing on TXD, RXD or CHIP. -/
def Obligations.ReservedCommandAnswersIllegal : Prop :=
  ∀ (s : State) (rest : List Input) (w : CmdWord), s.phase = .idle → s.inputs = .word (.cw w) :: rest →
    (w.toNat % 256 = 0 ∨ (0x06 ≤ w.toNat % 256 ∧ w.toNat % 256 ≤ 0x0F) ∨
      (0x16 ≤ w.toNat % 256 ∧ w.toNat % 256 ≤ 0x1F) ∨ 0x2B ≤ w.toNat % 256 ∨
      (w.toNat % 256 = 0x05 ∧ 5 ≤ w.toNat / 256 % 256)) →
    step s = .next { s with inputs := rest, rsp := s.rsp ++ [⟨.illegal, 0⟩] }

/-- R95 and 95_test_vectors: words written out bit by bit decode to the operations they stand for, garbage
in unused bits included (E2 to E5). -/
def Obligations.DecodesSpecWords : Prop :=
  decodeCommand 0x00000001 = .ok .available ∧ decodeCommand 0xFFFFFF01 = .ok .available ∧
  decodeCommand 0x00000002 = .ok .receive ∧ decodeCommand 0x12340205 = .ok (.rdcsr 2) ∧
  decodeCommand 0x01020511 = .ok (.send 5 2 true) ∧ decodeCommand 0xFE020511 = .ok (.send 5 2 false) ∧
  decodeCommand 0x00000014 = .ok .powerdown ∧ decodeCommand 0x00002A20 = .ok (.setaddr 0x2A) ∧
  decodeCommand 0x00001822 = .ok (.settxlvl 24) ∧ decodeCommand 0x0000002A = .ok .sanity ∧
  decodeEvent 0x81 = .ok (.irq true) ∧ decodeEvent 0x80 = .ok (.irq false)

/-- R91, R92, R98, R28: the response word is `(ST << 16) + RV` with ST in 0..2, and the mode codes are the
five of R28. -/
def Obligations.ResponseAndModeCodes : Prop :=
  (∀ rv : Half, (Rsp.word ⟨.done, rv⟩).toNat = rv.toNat ∧
    (Rsp.word ⟨.none, rv⟩).toNat = 0x10000 + rv.toNat ∧
    (Rsp.word ⟨.illegal, rv⟩).toNat = 0x20000 + rv.toNat) ∧
  Mode.rx.code = 0 ∧ Mode.tx.code = 1 ∧ Mode.sleep.code = 2 ∧ Mode.standby.code = 3 ∧
    Mode.powerDown.code = 4

/-! ## The step -/

/-- R104: with no operation in progress, a command word that decodes to `i` is accepted and taken from the
port, and the step is `exec i`. -/
def Obligations.StepAcceptsDecodedCommand : Prop :=
  ∀ (s : State) (rest : List Input) (w : CmdWord) (i : Instr), s.phase = .idle →
    s.inputs = .word (.cw w) :: rest → decode (.cw w) = .ok i → step s = exec i { s with inputs := rest }

/-- R67, R93: an event byte that decodes to `i` runs `exec i`, whatever operation is in progress. -/
def Obligations.StepTakesDecodedEvent : Prop :=
  ∀ (s : State) (rest : List Input) (e : Byte) (i : Instr), s.inputs = .word (.ev e) :: rest →
    decode (.ev e) = .ok i → step s = exec i { s with inputs := rest }

/-- R104, R34: MAIN's turn is the next micro-step of the operation in progress, and a command word that
stands next meanwhile is not accepted and stays (log 12); with none in progress the hardware is idle and waits.
That MAIN moves when no input is left is the model's choice (log 22). -/
def Obligations.StepContinuesOperation : Prop :=
  ∀ (s : State) (rest : List Input),
    (∀ i, s.phase.instr = some i →
      (s.inputs = [] → step s = exec i s) ∧
      (s.inputs = .tick :: rest → step s = exec i { s with inputs := rest }) ∧
      (∀ w, s.inputs = .word (.cw w) :: rest → step s = exec i s)) ∧
    (s.phase = .idle → (s.inputs = [] → step s = .next s) ∧
      (s.inputs = .tick :: rest → step s = .next { s with inputs := rest }))

/-- R18, R92, R104: a step that is not reset appends one response exactly when it ends an operation or
answers a command at once, a command accepted without an answer being in progress from then on; no answer comes
from an interrupt, nor from a turn of MAIN with no operation in progress; `NONE` and `ILLEGAL` carry RV = 0. -/
def Obligations.OneResponsePerOperation : Prop :=
  ∀ s t : State, ¬ s.resetNext → step s = .next t →
    (t.rsp = s.rsp ∧ (s.phase ≠ .idle → t.phase ≠ .idle) ∧
      ∀ w rest, s.phase = .idle → s.inputs = .word (.cw w) :: rest → t.phase ≠ .idle) ∨
      (∃ r, t.rsp = s.rsp ++ [r] ∧ t.phase = .idle ∧ (r.st ≠ .done → r.rv = 0) ∧ ¬ s.eventNext ∧
        (s.phase ≠ .idle ∨ ∃ w rest, s.inputs = .word (.cw w) :: rest))

/-- R92, R236: whatever is answered `ILLEGAL` changed nothing: no register, no memory, no call, no stream. -/
def Obligations.IllegalChangesNothing : Prop :=
  ∀ (i : Instr) (s t : State) (v : Half), s.phase = .idle → exec i s = .next t →
    t.rsp = s.rsp ++ [⟨.illegal, v⟩] → v = 0 ∧ t = { s with rsp := s.rsp ++ [⟨.illegal, 0⟩] }

/-- R7, R10, R123: no step changes a parameter. -/
def Obligations.ConfigurationNeverChanges : Prop :=
  ∀ s t : State, step s = .next t → t.cfg = s.cfg

/-! ## Reset -/

/-- R270, R271, R38: `rst` puts every register at its reset value, an operation in progress is abandoned
without a response, and what was emitted stays emitted. ADDR and the slots are unspecified and no clause
speaks of them. That TXD and the further inputs stay is the model's choice (log 25). -/
def Obligations.ResetInputResetsRegisters : Prop :=
  ∀ (s : State) (rest : List Input), s.inputs = .rst :: rest →
    ∃ t, step s = .next t ∧ t.occ = 0 ∧ t.head = 0 ∧ t.tail = 0 ∧ t.lost = 0 ∧ t.mode = .rx ∧
      t.txpend = false ∧ t.ready = false ∧ t.phase = .idle ∧ t.cfg = s.cfg ∧ t.rsp = s.rsp ∧
      t.rxd = s.rxd ∧ t.calls = s.calls ∧ t.txd = s.txd ∧ t.inputs = rest

/-- R39: the invariant holds after reset, in every legal configuration. -/
def Obligations.ResetMeetsInvariant : Prop :=
  ∀ c : Config, c.wellFormed = true → (State.resetWith c).Inv

/-- R273: before the first INIT the queue operations are legal and answer as listed, whatever ADDR and the
slots hold (the clauses on AVAILABLE and RECEIVE are those of buffered mode). -/
def Obligations.PreInitAnswers : Prop :=
  ∀ (c : Config) (a : Byte) (m : Memory) (s : State), c.wellFormed = true →
    s = { State.resetWith c with addr := a, mem := m } →
    (c.buffered = true → c.irqPolled = false →
      exec .available s = .next { s with rsp := [⟨.done, 0⟩] }) ∧
    (c.buffered = true → c.irqPolled = true →
      ∃ t, exec .available s = .next t ∧ exec .available t = .next { s with rsp := [⟨.done, 0⟩] }) ∧
    (c.buffered = true → exec .receive s = .next { s with rsp := [⟨.none, 0⟩] }) ∧
    exec .qempty s = .next { s with rsp := [⟨.done, 1⟩] } ∧
    exec .qfull s = .next { s with rsp := [⟨.done, 0⟩] } ∧
    exec (.rdcsr 0) s = .next { s with rsp := [⟨.done, 1⟩] } ∧
    exec (.rdcsr 1) s = .next { s with rsp := [⟨.done, 0⟩] } ∧
    exec (.rdcsr 2) s = .next { s with rsp := [⟨.done, 0⟩] } ∧
    exec (.rdcsr 3) s = .next { s with rsp := [⟨.done, 0⟩] }

/-! ## Queue operations -/

/-- R124: AVAILABLE in buffered mode, line not polled, answers whether the queue is non-empty, in every MODE
and with READY 0 or 1; so does its micro-step a1 after a poll. -/
def Obligations.AvailableAnswersOccupancy : Prop :=
  ∀ s : State, ((s.phase = .idle ∧ s.cfg.buffered = true ∧ s.cfg.irqPolled = false) ∨ s.phase = .availA1) →
    exec .available s =
      .next { s with phase := .idle, rsp := s.rsp ++ [⟨.done, if s.occ.toNat = 0 then 0 else 1⟩] }

/-- R124 a0, R125: on a polled line AVAILABLE first polls: nothing happens with READY = 0 or in a low-power
mode; a line that is not asserted is only read; an asserted one leads to one handler invocation (R151), in MODE =
RX with no frame (R152), with a frame that finds no room and is counted (R153), or with a frame that is stored,
the delivered one, capped (R152, R159). That the line is not read when READY and MODE forbid an invocation is the
model's reading (log 14), that F is a draw there (log 15), and that the raw length is the number of bytes
delivered (log 17). -/
def Obligations.AvailablePollsOnce : Prop :=
  ∀ s : State, s.phase = .idle → s.cfg.buffered = true → s.cfg.irqPolled = true →
    ((s.ready = false ∨ s.mode.active = false) → exec .available s = .next { s with phase := .availA1 }) ∧
    (s.ready = true → s.mode.active = true → s.nextBool = false →
      exec .available s = .next { s with
        phase := .availA1, bools := s.bools.tail, drawn := s.drawn + 1, calls := s.calls ++ [.irqLine] }) ∧
    (s.ready = true → s.mode = .tx → s.nextBool = true →
      exec .available s = .next { s with
        phase := .availA1, bools := s.bools.tail, drawn := s.drawn + 1, calls := s.calls ++ [.irqLine]
        mode := .rx, txpend := false }) ∧
    (s.ready = true → s.mode = .rx → s.nextBool = true → s.dropBool.nextBool = false →
      exec .available s = .next { s with
        phase := .availA1, bools := s.bools.tail.tail, drawn := s.drawn + 2
        calls := s.calls ++ [.irqLine, .irqHousekeeping] }) ∧
    (s.ready = true → s.mode = .rx → s.nextBool = true → s.dropBool.nextBool = true →
      s.occ.toNat = s.cfg.n →
      exec .available s = .next { s with
        phase := .availA1, lost := BitVec.ofNat 8 (min (s.lost.toNat + 1) 255)
        bools := s.bools.tail.tail, frames := s.frames.tail, drawn := s.drawn + 3
        calls := s.calls ++ [.irqLine, .irqHousekeeping, .readFrame false] }) ∧
    (s.Inv → s.ready = true → s.mode = .rx → s.nextBool = true → s.dropBool.nextBool = true →
      s.occ.toNat < s.cfg.n →
      ∃ t, exec .available s = .next t ∧
        t.slotLen s.tail.toNat = BitVec.ofNat 8 s.dropBool.dropBool.framePayload.length ∧
        t.slotFrame s.tail.toNat = s.dropBool.dropBool.framePayload ∧
        (∀ a, (a < slotLenAddr s.cfg s.tail.toNat ∨
            slotLenAddr s.cfg s.tail.toNat + 1 + s.dropBool.dropBool.framePayload.length ≤ a) →
          t.mem.get a = s.mem.get a) ∧
        t = { s with
          phase := .availA1, mem := t.mem
          tail := BitVec.ofNat 8 ((s.tail.toNat + 1) % s.cfg.n)
          occ := BitVec.ofNat 8 (s.occ.toNat + 1)
          bools := s.bools.tail.tail, frames := s.frames.tail, drawn := s.drawn + 3
          calls := s.calls ++ [.irqLine, .irqHousekeeping, .readFrame true] })

/-- R126: in direct mode AVAILABLE is the collaborator's data-ready query; no MSRXQ state is read or written. -/
def Obligations.AvailableDirectAsksChip : Prop :=
  ∀ s : State, s.phase = .idle → s.cfg.buffered = false →
    exec .available s = .next { s with
      bools := s.bools.tail, drawn := s.drawn + 1, calls := s.calls ++ [.dataReady]
      rsp := s.rsp ++ [⟨.done, if s.nextBool then 1 else 0⟩] }

/-- R127 c0 and corner case (a): RECEIVE on an empty queue answers `NONE 0` and leaves everything unchanged. -/
def Obligations.ReceiveEmptyAnswersNone : Prop :=
  ∀ s : State, s.phase = .idle → s.cfg.buffered = true → s.occ.toNat = 0 →
    exec .receive s = .next { s with rsp := s.rsp ++ [⟨.none, 0⟩] }

/-- R127: the micro-steps c0, c1, c2[i], c3, c4 of RECEIVE, each with its whole effect. HEAD < N is I2 of R39,
and i < MAX_FRAME_LEN follows from I4. -/
def Obligations.ReceiveMicroSteps : Prop :=
  ∀ s : State, s.head.toNat < s.cfg.n →
    (s.phase = .idle → s.cfg.buffered = true → s.occ.toNat ≠ 0 →
      exec .receive s = .next { s with phase := .recvC1 }) ∧
    (s.phase = .recvC1 →
      exec .receive s = .next { s with phase := .recvC2 (s.slotLen s.head.toNat) 0 }) ∧
    (∀ len i, s.phase = .recvC2 len i → i < len.toNat → i < s.cfg.maxFrameLen →
      exec .receive s = .next { s with
        rxd := s.rxd ++ [s.slotByte s.head.toNat i], phase := .recvC2 len (i + 1) }) ∧
    (∀ len i, s.phase = .recvC2 len i → len.toNat ≤ i →
      exec .receive s = .next { s with
        head := BitVec.ofNat 8 ((s.head.toNat + 1) % s.cfg.n), phase := .recvC4 len }) ∧
    (∀ len, s.phase = .recvC4 len →
      exec .receive s = .next { s with
        occ := BitVec.ofNat 8 (s.occ.toNat - 1), phase := .idle
        rsp := s.rsp ++ [⟨.done, BitVec.ofNat 16 len.toNat⟩] })

/-- R121, R127, R132: with nothing coming between, a RECEIVE removes the oldest frame, emits exactly its bytes
and answers its length, in 4 + L steps; nothing else changes. The run goes on past its one input, when MAIN has every
turn (log 22). -/
def Obligations.ReceivePopsOldestFrame : Prop :=
  ∀ (s : State) (f : List Byte) (rest : List (List Byte)), s.Inv → s.phase = .idle →
    s.cfg.buffered = true → s.inputs = [.word (.cw 0x00000002)] → s.queue = f :: rest →
    f.length ≤ s.cfg.maxFrameLen ∧
    ∃ t, stepTimes (4 + f.length) s = .next t ∧ t.queue = rest ∧
      t = { s with
        inputs := []
        head := BitVec.ofNat 8 ((s.head.toNat + 1) % s.cfg.n)
        occ := BitVec.ofNat 8 (s.occ.toNat - 1)
        rxd := s.rxd ++ f
        rsp := s.rsp ++ [⟨.done, BitVec.ofNat 16 f.length⟩] }

/-- R128: RECEIVE in direct mode: the chip's frame is read and capped, its bytes are emitted one by one, and an
acknowledgment is sent if the frame asked for one; the queue, LOST and MODE are untouched. The raw length is the
number of bytes delivered (log 17). -/
def Obligations.ReceiveDirectMicroSteps : Prop :=
  ∀ s : State,
    (s.phase = .idle → s.cfg.buffered = false →
      exec .receive s = .next { s with
        phase := .directU (BitVec.ofNat 8 s.framePayload.length) s.framePayload s.nextFrame.wantAck
        frames := s.frames.tail, drawn := s.drawn + 1, calls := s.calls ++ [.readFrame true] }) ∧
    (∀ len b bs ack, s.phase = .directU len (b :: bs) ack →
      exec .receive s = .next { s with rxd := s.rxd ++ [b], phase := .directU len bs ack }) ∧
    (∀ len ack, s.phase = .directU len [] ack →
      exec .receive s = .next { s with
        phase := .idle, calls := s.calls ++ (if ack then [.sendAck] else [])
        rsp := s.rsp ++ [⟨.done, BitVec.ofNat 16 len.toNat⟩] })

/-- R128: the whole direct-mode RECEIVE, from command to response (log 17 for the raw length, log 22 for the steps past
the one input). -/
def Obligations.ReceiveDirectCopiesChipFrame : Prop :=
  ∀ s : State, s.phase = .idle → s.cfg.wellFormed = true → s.cfg.buffered = false →
    s.inputs = [.word (.cw 0x00000002)] →
    stepTimes (2 + s.framePayload.length) s = .next { s with
      inputs := [], frames := s.frames.tail, drawn := s.drawn + 1
      rxd := s.rxd ++ s.framePayload
      calls := s.calls ++ [.readFrame true] ++ (if s.nextFrame.wantAck then [.sendAck] else [])
      rsp := s.rsp ++ [⟨.done, BitVec.ofNat 16 s.framePayload.length⟩] }

/-- R129, R130, R122: QEMPTY and QFULL answer `OCC = 0` and `OCC = N`, each its own word, and change nothing. -/
def Obligations.QemptyQfullAnswerOccupancy : Prop :=
  decodeCommand 0x00000003 = .ok .qempty ∧ decodeCommand 0x00000004 = .ok .qfull ∧
  ∀ s : State, s.phase = .idle →
    exec .qempty s = .next { s with rsp := s.rsp ++ [⟨.done, if s.occ.toNat = 0 then 1 else 0⟩] } ∧
    exec .qfull s = .next { s with rsp := s.rsp ++ [⟨.done, if s.occ.toNat = s.cfg.n then 1 else 0⟩] }

/-- R131, R32, R33: RDCSR answers the numbered register zero-extended, STATUS composed of EMPTY, FULL, TXPEND and
READY, and ILLEGAL for k ≥ 5; nothing changes. -/
def Obligations.RdcsrReadsRegister : Prop :=
  (∀ k : Byte, decodeCommand (0x00000005#32 + (k.zeroExtend 32 <<< 8)) = .ok (.rdcsr k)) ∧
  ∀ s : State, s.phase = .idle →
    exec (.rdcsr 0) s = .next { s with rsp := s.rsp ++ [⟨.done, BitVec.ofNat 16
      ((if s.occ.toNat = 0 then 1 else 0) + (if s.occ.toNat = s.cfg.n then 2 else 0) +
        (if s.txpend then 4 else 0) + (if s.ready then 8 else 0))⟩] } ∧
    exec (.rdcsr 1) s = .next { s with rsp := s.rsp ++ [⟨.done, BitVec.ofNat 16 s.occ.toNat⟩] } ∧
    exec (.rdcsr 2) s = .next { s with rsp := s.rsp ++ [⟨.done, BitVec.ofNat 16 s.lost.toNat⟩] } ∧
    exec (.rdcsr 3) s = .next { s with rsp := s.rsp ++ [⟨.done, BitVec.ofNat 16 s.mode.code.toNat⟩] } ∧
    exec (.rdcsr 4) s = .next { s with rsp := s.rsp ++ [⟨.done, BitVec.ofNat 16 s.addr.toNat⟩] } ∧
    (∀ k : Byte, 5 ≤ k.toNat →
      exec (.rdcsr k) s = .next { s with rsp := s.rsp ++ [⟨.illegal, 0⟩] })

/-! ## The interrupt -/

/-- R150: from a state that meets the invariant, the IRQ agent has a step exactly when BUFFERED, not IRQ_POLLED,
READY and MODE in RX, TX (the event being the asserted line; elsewhere the model stops, log 11). -/
def Obligations.IrqStepsExactlyWhenEnabled : Prop :=
  ∀ (s : State) (f : Bool), s.Inv →
    ((∃ t, exec (.irq f) s = .next t) ↔
      (s.cfg.buffered = true ∧ s.cfg.irqPolled = false ∧ s.ready = true ∧ (s.mode = .rx ∨ s.mode = .tx)))

/-- R152, R120, R159: in MODE = RX with room, the frame is drained and stored in the slot at TAIL, capped; TAIL and
OCC advance. The bytes stored to are those from the slot's LEN on, LEN and the payload; every other byte of
memory and every other register is unchanged. The raw length is the number of bytes delivered (log 17). -/
def Obligations.IrqStoresFrame : Prop :=
  ∀ s : State, s.Inv → s.cfg.buffered = true → s.cfg.irqPolled = false → s.ready = true → s.mode = .rx →
    s.occ.toNat < s.cfg.n →
    ∃ t, exec (.irq true) s = .next t ∧
      t.slotLen s.tail.toNat = BitVec.ofNat 8 s.framePayload.length ∧
      t.slotFrame s.tail.toNat = s.framePayload ∧
      (∀ a, (a < slotLenAddr s.cfg s.tail.toNat ∨
          slotLenAddr s.cfg s.tail.toNat + 1 + s.framePayload.length ≤ a) → t.mem.get a = s.mem.get a) ∧
      t = { s with
        mem := t.mem
        tail := BitVec.ofNat 8 ((s.tail.toNat + 1) % s.cfg.n)
        occ := BitVec.ofNat 8 (s.occ.toNat + 1)
        frames := s.frames.tail, drawn := s.drawn + 1
        calls := s.calls ++ [.irqHousekeeping, .readFrame true] }

/-- R153, R157: in MODE = RX at a full queue the frame is drained, discarded and counted, saturating at 255; nothing
else changes. -/
def Obligations.IrqDiscardsAndCountsWhenFull : Prop :=
  ∀ s : State, s.cfg.buffered = true → s.cfg.irqPolled = false → s.ready = true → s.mode = .rx →
    s.occ.toNat = s.cfg.n →
    exec (.irq true) s = .next { s with
      lost := BitVec.ofNat 8 (min (s.lost.toNat + 1) 255)
      frames := s.frames.tail, drawn := s.drawn + 1
      calls := s.calls ++ [.irqHousekeeping, .readFrame false] }

/-- R152: with F = 0 an invocation in MODE = RX changes no MSRXQ state. -/
def Obligations.IrqWithoutFrameChangesNothing : Prop :=
  ∀ s : State, s.cfg.buffered = true → s.cfg.irqPolled = false → s.ready = true → s.mode = .rx →
    exec (.irq false) s = .next { s with calls := s.calls ++ [.irqHousekeeping] }

/-- R154: in MODE = TX every invocation completes the pending send, F ignored; the queue and LOST are not touched and
nothing is called. -/
def Obligations.IrqCompletesTransmit : Prop :=
  ∀ (s : State) (f : Bool), s.cfg.buffered = true → s.cfg.irqPolled = false → s.ready = true →
    s.mode = .tx → exec (.irq f) s = .next { s with txpend := false, mode := .rx }

/-- R155, U4: with READY = 0 or in a low-power mode the model has no IRQ step: it stops (log 11, the model's form of
"stuck"). -/
def Obligations.IrqStuckWhenNotEnabled : Prop :=
  ∀ (s : State) (f : Bool), (s.ready = false ∨ s.mode.active = false) →
    exec (.irq f) s = .fault .irqNotEnabled

/-- R161: the handler does not read or write HEAD or ADDR (with other values there it does the same and leaves them),
never decrements OCC, never clears or decrements LOST, and sets MODE to nothing but RX. -/
def Obligations.HandlerKeepsToItsState : Prop :=
  ∀ (s : State) (f : Bool), s.cfg.wellFormed = true →
    (∀ h a, exec (.irq f) { s with head := h, addr := a } =
      andThen (exec (.irq f) s) fun t => .next { t with head := h, addr := a }) ∧
    ∀ t, exec (.irq f) s = .next t →
      t.head = s.head ∧ t.addr = s.addr ∧ s.occ.toNat ≤ t.occ.toNat ∧ s.lost.toNat ≤ t.lost.toNat ∧
        (t.mode = s.mode ∨ t.mode = .rx)

/-- R243, R244: taking the interrupt and returning from it leave the operation in progress, READY and the other ports
as they were. -/
def Obligations.InterruptLeavesMainFrozen : Prop :=
  ∀ (s t : State) (f : Bool), exec (.irq f) s = .next t →
    t.phase = s.phase ∧ t.ready = s.ready ∧ t.rsp = s.rsp ∧ t.rxd = s.rxd ∧ t.txd = s.txd ∧
      t.inputs = s.inputs

/-! ## The Radio Mode operations -/

/-- R171: a successful INIT. ENCRYPTION adds the call that provisions the key; where it stands is the model's choice
(log 16). -/
def Obligations.InitSucceeds : Prop :=
  ∀ s : State, s.phase = .idle → s.nextBool = true →
    exec .init s = .next { s with
      mode := .rx, txpend := false, ready := true, bools := s.bools.tail, drawn := s.drawn + 1
      calls := s.calls ++ [.initRadio s.cfg.frequency s.addr s.cfg.networkId] ++
        (if s.cfg.encryption then [.encrypt] else []) ++
        (if s.cfg.buffered then [.registerReceiveCallback] else [])
      rsp := s.rsp ++ [⟨.done, 1⟩] }

/-- R171, R231: a failed INIT clears READY and answers `DONE 0`; without ENCRYPTION that is all, with it a further call
may have been made (log 16), and still no register but READY changes. -/
def Obligations.InitFails : Prop :=
  ∀ s : State, s.phase = .idle → s.nextBool = false →
    (s.cfg.encryption = false →
      exec .init s = .next { s with
        ready := false, bools := s.bools.tail, drawn := s.drawn + 1
        calls := s.calls ++ [.initRadio s.cfg.frequency s.addr s.cfg.networkId]
        rsp := s.rsp ++ [⟨.done, 0⟩] }) ∧
    ∃ t, exec .init s = .next t ∧
      t = { s with
        ready := false, rsp := s.rsp ++ [⟨.done, 0⟩]
        bools := t.bools, drawn := t.drawn, calls := t.calls } ∧
      (t.calls = s.calls ++ [.initRadio s.cfg.frequency s.addr s.cfg.networkId] ∨
        t.calls = s.calls ++ [.initRadio s.cfg.frequency s.addr s.cfg.networkId, .encrypt])

/-- R172 s0, R177, R236 (c), (d), (e): a SEND with READY = 0, in a low-power mode or with a length above MAX_FRAME_LEN is
answered `ILLEGAL 0`; nothing is taken from TXD, nothing changes. -/
def Obligations.SendRejected : Prop :=
  ∀ (s : State) (dest len : Byte) (noack : Bool), s.phase = .idle →
    (s.ready = false ∨ s.mode.active = false ∨ s.cfg.maxFrameLen < len.toNat) →
    exec (.send dest len noack) s = .next { s with rsp := s.rsp ++ [⟨.illegal, 0⟩] }

/-- R172 s0, s1: an accepted SEND latches its operands, then takes exactly `len` bytes from TXD; without those bytes
it is stuck (R276, log 10). -/
def Obligations.SendTakesPayload : Prop :=
  ∀ (s : State) (dest len : Byte) (noack : Bool),
    (s.phase = .idle → s.ready = true → s.mode.active = true → len.toNat ≤ s.cfg.maxFrameLen →
      exec (.send dest len noack) s = .next { s with phase := .sendS1 ⟨dest, len, noack⟩ }) ∧
    (s.phase = .sendS1 ⟨dest, len, noack⟩ → len.toNat ≤ s.txd.length →
      exec (.send dest len noack) s = .next { s with
        txd := s.txd.drop len.toNat, phase := .sendS2 ⟨dest, len, noack⟩ (s.txd.take len.toNat) 0 }) ∧
    (s.phase = .sendS1 ⟨dest, len, noack⟩ → s.txd.length < len.toNat →
      exec (.send dest len noack) s = .fault .txdMissing)

/-- R172 s2: in MODE = RX the attempt starts: MODE and TXPEND change together with the call; with the acknowledgment
suppressed the answer is `DONE 1` at once. -/
def Obligations.SendStartsTransmit : Prop :=
  ∀ (s : State) (dest len : Byte) (data : List Byte) (a : Nat), s.mode = .rx →
    (s.phase = .sendS2 ⟨dest, len, true⟩ data a →
      exec (.send dest len true) s = .next { s with
        mode := .tx, txpend := true, phase := .idle
        calls := s.calls ++ [.startTransmit dest data len false], rsp := s.rsp ++ [⟨.done, 1⟩] }) ∧
    (s.phase = .sendS2 ⟨dest, len, false⟩ data a →
      exec (.send dest len false) s = .next { s with
        mode := .tx, txpend := true, phase := .sendS3 ⟨dest, len, false⟩ data a
        calls := s.calls ++ [.startTransmit dest data len true] })

/-- R172 s2, s3: SEND is held while MODE is not RX, and while TXPEND = 1. On a line that is not polled MAIN then has no
step, which the model shows as a step that changes nothing (log 9). On a polled line SEND polls, once a step, which is
the model's reading (log 26): an asserted line in MODE = TX lifts the hold, and where no invocation can be, in direct
mode among others, nothing happens (the model's reading, log 14). -/
def Obligations.SendHeldUntilTransmitCompletes : Prop :=
  ∀ (s : State) (op : SendOp) (data : List Byte) (a : Nat),
    ((s.phase = .sendS2 op data a ∧ s.mode ≠ .rx) ∨ (s.phase = .sendS3 op data a ∧ s.txpend = true)) →
    ((s.cfg.irqPolled = false ∨ s.cfg.buffered = false ∨ s.ready = false ∨ s.mode.active = false) →
      exec (.send op.dest op.len op.noack) s = .next s) ∧
    (s.cfg.irqPolled = true → s.cfg.buffered = true → s.ready = true → s.mode = .tx →
      (s.nextBool = false → exec (.send op.dest op.len op.noack) s = .next { s with
        bools := s.bools.tail, drawn := s.drawn + 1, calls := s.calls ++ [.irqLine] }) ∧
      (s.nextBool = true → exec (.send op.dest op.len op.noack) s = .next { s with
        bools := s.bools.tail, drawn := s.drawn + 1, calls := s.calls ++ [.irqLine]
        mode := .rx, txpend := false }))

/-- R172 s3, s4: once the transmission is complete the collaborator is asked; acknowledged, `DONE 1`; else another
attempt while a < RETRIES; else `DONE 0`. That SEND does not poll inside s4, on a polled line either, is the model's
reading (log 26). -/
def Obligations.SendAsksAndRetries : Prop :=
  ∀ (s : State) (op : SendOp) (data : List Byte) (a : Nat),
    (s.phase = .sendS3 op data a → s.txpend = false →
      exec (.send op.dest op.len op.noack) s = .next { s with phase := .sendS4 op data a }) ∧
    (s.phase = .sendS4 op data a →
      (s.nextBool = true → exec (.send op.dest op.len op.noack) s = .next { s with
        bools := s.bools.tail, drawn := s.drawn + 1, calls := s.calls ++ [.ackResult]
        phase := .idle, rsp := s.rsp ++ [⟨.done, 1⟩] }) ∧
      (s.nextBool = false → a < s.cfg.retries → exec (.send op.dest op.len op.noack) s = .next { s with
        bools := s.bools.tail, drawn := s.drawn + 1, calls := s.calls ++ [.ackResult]
        phase := .sendS2 op data (a + 1) }) ∧
      (s.nextBool = false → s.cfg.retries ≤ a → exec (.send op.dest op.len op.noack) s = .next { s with
        bools := s.bools.tail, drawn := s.drawn + 1, calls := s.calls ++ [.ackResult]
        phase := .idle, rsp := s.rsp ++ [⟨.done, 0⟩] }))

/-- R172 (a): a SEND with the acknowledgment suppressed, from MODE = RX, answers `DONE 1` in three steps whatever the
collaborator would report, MODE = TX at the response (log 22 for the steps past the one input). -/
def Obligations.SuppressedSendAlwaysSucceeds : Prop :=
  ∀ (s : State) (dest len : Byte) (w : CmdWord), encode (.send dest len true) = .cw w →
    s.phase = .idle → s.ready = true → s.mode = .rx → len.toNat ≤ s.cfg.maxFrameLen →
    len.toNat ≤ s.txd.length → s.inputs = [.word (.cw w)] →
    stepTimes 3 s = .next { s with
      inputs := [], txd := s.txd.drop len.toNat, mode := .tx, txpend := true
      calls := s.calls ++ [.startTransmit dest (s.txd.take len.toNat) len false]
      rsp := s.rsp ++ [⟨.done, 1⟩] }

/-- R172 (b), R154: an acknowledged SEND whose transmission is completed by one interrupt: RX, TX, RX, `DONE 1`, with one
start and one query (log 22 for the steps past the last input). -/
def Obligations.AcknowledgedSendReturnsToRx : Prop :=
  ∀ (s : State) (dest len : Byte) (w : CmdWord) (f : Bool), encode (.send dest len false) = .cw w →
    s.phase = .idle → s.cfg.buffered = true → s.cfg.irqPolled = false → s.ready = true → s.mode = .rx →
    s.txpend = false → len.toNat ≤ s.cfg.maxFrameLen → len.toNat ≤ s.txd.length → s.nextBool = true →
    s.inputs = [.word (.cw w), .tick, .tick, .word (.ev (if f then 0x81 else 0x80))] →
    stepTimes 6 s = .next { s with
      inputs := [], txd := s.txd.drop len.toNat, bools := s.bools.tail, drawn := s.drawn + 1
      calls := s.calls ++ [.startTransmit dest (s.txd.take len.toNat) len true, .ackResult]
      rsp := s.rsp ++ [⟨.done, 1⟩] }

/-- R173, R174, R175: SLEEP, STANDBY and POWERDOWN, each with its own mode and its own call, legal from RX and TX with
READY = 1, a pending send being abandoned; from a low-power mode or with READY = 0 `ILLEGAL 0`. -/
def Obligations.LowPowerEntry : Prop :=
  (decodeCommand 0x00000012 = .ok .sleep ∧ decodeCommand 0x00000013 = .ok .standby ∧
    decodeCommand 0x00000014 = .ok .powerdown) ∧
  ∀ s : State, s.phase = .idle →
    (s.ready = true → (s.mode = .rx ∨ s.mode = .tx) →
      exec .sleep s = .next { s with
        mode := .sleep, txpend := false, calls := s.calls ++ [.sleep], rsp := s.rsp ++ [⟨.done, 0⟩] } ∧
      exec .standby s = .next { s with
        mode := .standby, txpend := false, calls := s.calls ++ [.standBy], rsp := s.rsp ++ [⟨.done, 0⟩] } ∧
      exec .powerdown s = .next { s with
        mode := .powerDown, txpend := false, calls := s.calls ++ [.powerDown]
        rsp := s.rsp ++ [⟨.done, 0⟩] }) ∧
    ((s.ready = false ∨ (s.mode ≠ .rx ∧ s.mode ≠ .tx)) →
      exec .sleep s = .next { s with rsp := s.rsp ++ [⟨.illegal, 0⟩] } ∧
      exec .standby s = .next { s with rsp := s.rsp ++ [⟨.illegal, 0⟩] } ∧
      exec .powerdown s = .next { s with rsp := s.rsp ++ [⟨.illegal, 0⟩] })

/-- R176: POWERUP leaves a low-power mode for RX; in RX and TX only the call is forwarded; with READY = 0 `ILLEGAL 0`. -/
def Obligations.PowerUpReturnsToRx : Prop :=
  decodeCommand 0x00000015 = .ok .powerup ∧
  ∀ s : State, s.phase = .idle →
    (s.ready = true → exec .powerup s = .next { s with
      mode := if s.mode = .tx then .tx else .rx
      calls := s.calls ++ [.powerUp], rsp := s.rsp ++ [⟨.done, 0⟩] }) ∧
    (s.ready = false → exec .powerup s = .next { s with rsp := s.rsp ++ [⟨.illegal, 0⟩] })

/-- R170, R177: a step that is not reset changes MODE only as the state machine lists: into TX only from RX, by a SEND at
s2; into a low-power mode only from RX or TX with READY = 1, by the command of that mode; out of a low-power mode
only to RX, by POWERUP or a successful INIT; from TX to RX, TXPEND being cleared, only by an interrupt, by a poll that
finds the line asserted (R125, R172: AVAILABLE's a0, or a SEND held at s2 or s3), or by a successful INIT. That such a
poll is in buffered mode only, no handler being there in direct mode (R10), is the model's reading (log 14). -/
def Obligations.ModeChangesOnlyAsListed : Prop :=
  ∀ s t : State, ¬ s.resetNext → step s = .next t → t.mode ≠ s.mode →
    (t.mode = .tx → s.mode = .rx ∧ ∃ op data a, s.phase = .sendS2 op data a) ∧
    (t.mode.active = false → s.mode.active = true ∧ s.ready = true ∧
      ((t.mode = .sleep ∧ s.accepts .sleep) ∨ (t.mode = .standby ∧ s.accepts .standby) ∨
        (t.mode = .powerDown ∧ s.accepts .powerdown))) ∧
    (s.mode.active = false → t.mode = .rx ∧
      ((s.accepts .powerup ∧ s.ready = true) ∨ (s.accepts .init ∧ s.nextBool = true))) ∧
    (s.mode = .tx → t.mode = .rx → t.txpend = false ∧
      ((s.eventNext ∧ s.cfg.buffered = true ∧ s.cfg.irqPolled = false ∧ s.ready = true) ∨
        (¬ s.eventNext ∧ s.cfg.buffered = true ∧ s.cfg.irqPolled = true ∧ s.ready = true ∧ s.nextBool = true ∧
          (s.accepts .available ∨ (∃ op data a, s.phase = .sendS2 op data a) ∨
            ∃ op data a, s.phase = .sendS3 op data a ∧ s.txpend = true)) ∨
        (s.accepts .init ∧ s.nextBool = true)))

/-! ## The Address register and the pass-through operations -/

/-- R200, R201: SETADDR writes ADDR and pushes it to the chip; GETADDR answers the local copy and calls nothing. -/
def Obligations.AddressRegister : Prop :=
  (∀ a : Byte, decodeCommand (0x00000020#32 + (a.zeroExtend 32 <<< 8)) = .ok (.setaddr a)) ∧
  decodeCommand 0x00000021 = .ok .getaddr ∧
  ∀ s : State, s.phase = .idle →
    (∀ a, exec (.setaddr a) s = .next { s with
      addr := a, calls := s.calls ++ [.setAddress a], rsp := s.rsp ++ [⟨.done, 0⟩] }) ∧
    exec .getaddr s = .next { s with rsp := s.rsp ++ [⟨.done, BitVec.ofNat 16 s.addr.toNat⟩] }

/-- R202, R204: a power setting is forwarded when the variant supports it and the value is in range (23, 100), and
answers what the collaborator says; else `DONE 0` and nothing is forwarded. -/
def Obligations.PowerSettingsRangeChecked : Prop :=
  (∀ v : Byte, decodeCommand (0x00000022#32 + (v.zeroExtend 32 <<< 8)) = .ok (.settxlvl v) ∧
    decodeCommand (0x00000024#32 + (v.zeroExtend 32 <<< 8)) = .ok (.settxpct v)) ∧
  ∀ (s : State) (v : Byte), s.phase = .idle →
    (s.cfg.hasTxLevel = true → v.toNat ≤ 23 → exec (.settxlvl v) s = .next { s with
      bools := s.bools.tail, drawn := s.drawn + 1, calls := s.calls ++ [.setTxPowerLevel v]
      rsp := s.rsp ++ [⟨.done, if s.nextBool then 1 else 0⟩] }) ∧
    ((s.cfg.hasTxLevel = false ∨ 23 < v.toNat) →
      exec (.settxlvl v) s = .next { s with rsp := s.rsp ++ [⟨.done, 0⟩] }) ∧
    (s.cfg.hasTxPercent = true → v.toNat ≤ 100 → exec (.settxpct v) s = .next { s with
      bools := s.bools.tail, drawn := s.drawn + 1, calls := s.calls ++ [.setTxPowerPercent v]
      rsp := s.rsp ++ [⟨.done, if s.nextBool then 1 else 0⟩] }) ∧
    ((s.cfg.hasTxPercent = false ∨ 100 < v.toNat) →
      exec (.settxpct v) s = .next { s with rsp := s.rsp ++ [⟨.done, 0⟩] })

/-- R203, R205 to R209: the power and telemetry queries, each under its own capability flag and with its own call, answer
the collaborator's value, or the sentinel on a variant without the feature, which calls nothing. -/
def Obligations.QueriesAnswerValueOrSentinel : Prop :=
  (decodeCommand 0x00000023 = .ok .gettxlvl ∧ decodeCommand 0x00000025 = .ok .gettxpct ∧
    decodeCommand 0x00000026 = .ok .getsrssi ∧ decodeCommand 0x00000027 = .ok .getrrssi ∧
    decodeCommand 0x00000028 = .ok .getssnr ∧ decodeCommand 0x00000029 = .ok .getrsnr) ∧
  ∀ s : State, s.phase = .idle →
    (exec .gettxlvl s = .next (if s.cfg.hasTxLevel then { s with
        words := s.words.tail, drawn := s.drawn + 1, calls := s.calls ++ [.getTxPowerLevel]
        rsp := s.rsp ++ [⟨.done, s.nextHalf⟩] }
      else { s with rsp := s.rsp ++ [⟨.done, s.cfg.invalidLevel⟩] })) ∧
    (exec .gettxpct s = .next (if s.cfg.hasTxPercent then { s with
        words := s.words.tail, drawn := s.drawn + 1, calls := s.calls ++ [.getTxPowerPercent]
        rsp := s.rsp ++ [⟨.done, s.nextHalf⟩] }
      else { s with rsp := s.rsp ++ [⟨.done, s.cfg.invalidPercent⟩] })) ∧
    (exec .getsrssi s = .next (if s.cfg.hasRssiTx then { s with
        words := s.words.tail, drawn := s.drawn + 1, calls := s.calls ++ [.getRssi true]
        rsp := s.rsp ++ [⟨.done, s.nextHalf⟩] }
      else { s with rsp := s.rsp ++ [⟨.done, s.cfg.invalidRssi⟩] })) ∧
    (exec .getrrssi s = .next (if s.cfg.hasRssiRx then { s with
        words := s.words.tail, drawn := s.drawn + 1, calls := s.calls ++ [.getRssi false]
        rsp := s.rsp ++ [⟨.done, s.nextHalf⟩] }
      else { s with rsp := s.rsp ++ [⟨.done, s.cfg.invalidRssi⟩] })) ∧
    (exec .getssnr s = .next (if s.cfg.hasSnrTx then { s with
        words := s.words.tail, drawn := s.drawn + 1, calls := s.calls ++ [.getSnr true]
        rsp := s.rsp ++ [⟨.done, s.nextHalf⟩] }
      else { s with rsp := s.rsp ++ [⟨.done, s.cfg.invalidSnr⟩] })) ∧
    (exec .getrsnr s = .next (if s.cfg.hasSnrRx then { s with
        words := s.words.tail, drawn := s.drawn + 1, calls := s.calls ++ [.getSnr false]
        rsp := s.rsp ++ [⟨.done, s.nextHalf⟩] }
      else { s with rsp := s.rsp ++ [⟨.done, s.cfg.invalidSnr⟩] }))

/-- R210: SANITY answers the collaborator's self-test and changes nothing on its own. -/
def Obligations.SanityForwardsSelfTest : Prop :=
  decodeCommand 0x0000002A = .ok .sanity ∧
  ∀ s : State, s.phase = .idle → exec .sanity s = .next { s with
    bools := s.bools.tail, drawn := s.drawn + 1, calls := s.calls ++ [.sanityCheck]
    rsp := s.rsp ++ [⟨.done, if s.nextBool then 1 else 0⟩] }

/-- R211: every operation of the family is one micro-step, accepted in every MODE and with READY 0 or 1; it answers DONE,
and of the registers and the slots it can change ADDR only, and that only SETADDR does. -/
def Obligations.FacadeTouchesOnlyAddress : Prop :=
  ∀ (i : Instr) (s : State), isFacade i = true → s.phase = .idle →
    ∃ t v, exec i s = .next t ∧
      t = { s with
        addr := t.addr, bools := t.bools, words := t.words, drawn := t.drawn, calls := t.calls
        rsp := s.rsp ++ [⟨.done, v⟩] } ∧
      (t.addr = s.addr ∨ ∃ a, i = .setaddr a ∧ t.addr = a)

/-! ## Whole-machine rules -/

/-- R39 (I1 to I4, I7) with the ring invariant of R26: every step keeps the invariant, from every state that meets it. -/
def Obligations.InvariantKept : Prop := ∀ s t : State, s.Inv → step s = .next t → t.Inv

/-- R134 (a), R26, R123: the abstract queue is a FIFO. A step that is not reset leaves it alone, or appends the one frame
just drained with `keep`, which is the delivered frame, capped, or removes the oldest frame at c4 of a RECEIVE, which
answers that frame's length. A frame is appended by an interrupt event with F = 1, or on a polled line by the poll of
AVAILABLE, where two answers, the line and F, come before the frame (log 15); that no poll of a SEND appends one, SEND
not polling inside s4, is the model's reading (log 26), and so is that the raw length is the number of bytes delivered
(log 17). -/
def Obligations.QueueIsFifo : Prop :=
  ∀ s t : State, s.Inv → ¬ s.resetNext → step s = .next t →
    t.queue = s.queue ∨
    (∃ f, t.queue = s.queue ++ [f] ∧ f.length ≤ s.cfg.maxFrameLen ∧
      readCount true t.calls = readCount true s.calls + 1 ∧
      ((s.cfg.irqPolled = false ∧ (∃ rest, s.inputs = .word (.ev 0x81) :: rest) ∧ f = s.framePayload) ∨
        (s.cfg.irqPolled = true ∧ s.accepts .available ∧ s.nextBool = true ∧ s.dropBool.nextBool = true ∧
          f = s.dropBool.dropBool.framePayload))) ∨
    (∃ f len, s.queue = f :: t.queue ∧ s.phase = .recvC4 len ∧ f.length = len.toNat ∧
      t.rsp = s.rsp ++ [⟨.done, BitVec.ofNat 16 len.toNat⟩])

/-- R69, R73: the slot a RECEIVE is reading is not overwritten before it has been read to the end, whatever comes
between. -/
def Obligations.SlotBeingReadIsStable : Prop :=
  ∀ s t : State, s.Inv → (s.phase = .recvC1 ∨ ∃ len i, s.phase = .recvC2 len i) → ¬ s.resetNext →
    step s = .next t → t.slotFrame s.head.toNat = s.slotFrame s.head.toNat

/-- R153, R134 (b), R27: LOST counts the frames drained with `discard`, one each, saturating at 255, and nothing else; it
never decreases without reset. -/
def Obligations.LostCountsDiscards : Prop :=
  ∀ s t : State, ¬ s.resetNext → step s = .next t →
    (readCount false t.calls = readCount false s.calls ∨
      readCount false t.calls = readCount false s.calls + 1) ∧
    t.lost.toNat = min 255 (s.lost.toNat + (readCount false t.calls - readCount false s.calls))

/-- R72, R36: with the line not polled, no operation of MAIN writes TAIL, LOST or a slot, and none raises OCC. -/
def Obligations.MainNeverProduces : Prop :=
  ∀ (i : Instr) (s t : State), isMain i = true → s.cfg.irqPolled = false → exec i s = .next t →
    t.tail = s.tail ∧ t.lost = s.lost ∧ t.mem = s.mem ∧ t.occ.toNat ≤ s.occ.toNat

/-- R39 I8: while READY = 0 the queue, LOST and the slots do not change except by RECEIVE, which writes HEAD and OCC. -/
def Obligations.NotReadyFreezesQueue : Prop :=
  ∀ s t : State, s.ready = false → ¬ s.resetNext → step s = .next t →
    t.tail = s.tail ∧ t.lost = s.lost ∧ t.mem = s.mem ∧
      ((t.occ = s.occ ∧ t.head = s.head) ∨ s.phase.instr = some .receive)

/-- R10, R129, D28: in direct mode no step but reset touches the queue, LOST or the slots. -/
def Obligations.DirectModeLeavesQueue : Prop :=
  ∀ s t : State, s.Inv → s.cfg.buffered = false → ¬ s.resetNext → step s = .next t →
    t.occ = s.occ ∧ t.head = s.head ∧ t.tail = s.tail ∧ t.lost = s.lost ∧ t.mem = s.mem

/-- R70: the occupancy updates of a push and of a RECEIVE at c4 may come in either order; the result is the same state,
OCC unchanged. -/
def Obligations.OccupancyUpdatesCommute : Prop :=
  ∀ (s : State) (len : Byte), s.Inv → s.phase = .recvC4 len → s.cfg.irqPolled = false → s.ready = true →
    s.mode = .rx → s.occ.toNat < s.cfg.n →
    ∃ t u v, exec (.irq true) s = .next t ∧ exec .receive t = .next v ∧
      exec .receive s = .next u ∧ exec (.irq true) u = .next v ∧ v.occ = s.occ

/-- R74: a frame that arrives while a RECEIVE stands between c0 and c4 at a full queue is discarded and counted, the queue
as it was; after c4 the next frame is accepted, the delivered one, capped (R159). That its raw length is the number of
bytes delivered is the model's reading (log 17). -/
def Obligations.FullQueueLossWindow : Prop :=
  ∀ s : State, s.Inv → s.phase.instr = some .receive → s.cfg.buffered = true → s.cfg.irqPolled = false →
    s.ready = true → s.mode = .rx → s.occ.toNat = s.cfg.n →
    (∃ t, exec (.irq true) s = .next t ∧ t.queue = s.queue ∧ t.occ = s.occ ∧ t.phase = s.phase ∧
      t.lost.toNat = min 255 (s.lost.toNat + 1)) ∧
    (∀ len, s.phase = .recvC4 len →
      ∃ u v, exec .receive s = .next u ∧ exec (.irq true) u = .next v ∧
        v.occ = s.occ ∧ v.lost = s.lost ∧ v.queue = u.queue ++ [s.framePayload])

/-- R134 (c): a frame pushed into the empty queue and then popped comes out with its length and its bytes, for every
length 0 .. MAX_FRAME_LEN. The length is the number of bytes delivered (log 17), and the run goes on past its last
input (log 22). -/
def Obligations.PushPopRoundTrip : Prop :=
  ∀ (s : State) (fr : ChipFrame) (fs : List ChipFrame), s.Inv → s.phase = .idle → s.cfg.buffered = true →
    s.cfg.irqPolled = false → s.ready = true → s.mode = .rx → s.occ.toNat = 0 → s.frames = fr :: fs →
    fr.bytes.length ≤ s.cfg.maxFrameLen →
    s.inputs = [.word (.ev 0x81), .word (.cw 0x00000002)] →
    ∃ t, stepTimes (5 + fr.bytes.length) s = .next t ∧ t.rxd = s.rxd ++ fr.bytes ∧
      t.rsp = s.rsp ++ [⟨.done, BitVec.ofNat 16 fr.bytes.length⟩] ∧ t.occ = s.occ ∧ t.lost = s.lost
end

