-- ==== Sys2Proof/Laws/State.lean ====
section
/-! SUPPORT. What each named update of the state does to each field, true by unfolding. -/

namespace Sys2Proof.Machine

@[simp] theorem State.record_cfg (c : ChipCall) (s : State) : (s.record c).cfg = s.cfg := rfl
@[simp] theorem State.record_occ (c : ChipCall) (s : State) : (s.record c).occ = s.occ := rfl
@[simp] theorem State.record_head (c : ChipCall) (s : State) : (s.record c).head = s.head := rfl
@[simp] theorem State.record_tail (c : ChipCall) (s : State) : (s.record c).tail = s.tail := rfl
@[simp] theorem State.record_lost (c : ChipCall) (s : State) : (s.record c).lost = s.lost := rfl
@[simp] theorem State.record_mode (c : ChipCall) (s : State) : (s.record c).mode = s.mode := rfl
@[simp] theorem State.record_addr (c : ChipCall) (s : State) : (s.record c).addr = s.addr := rfl
@[simp] theorem State.record_txpend (c : ChipCall) (s : State) : (s.record c).txpend = s.txpend := rfl
@[simp] theorem State.record_ready (c : ChipCall) (s : State) : (s.record c).ready = s.ready := rfl
@[simp] theorem State.record_mem (c : ChipCall) (s : State) : (s.record c).mem = s.mem := rfl
@[simp] theorem State.record_phase (c : ChipCall) (s : State) : (s.record c).phase = s.phase := rfl
@[simp] theorem State.record_inputs (c : ChipCall) (s : State) : (s.record c).inputs = s.inputs := rfl
@[simp] theorem State.record_txd (c : ChipCall) (s : State) : (s.record c).txd = s.txd := rfl
@[simp] theorem State.record_rsp (c : ChipCall) (s : State) : (s.record c).rsp = s.rsp := rfl
@[simp] theorem State.record_rxd (c : ChipCall) (s : State) : (s.record c).rxd = s.rxd := rfl
@[simp] theorem State.record_calls (c : ChipCall) (s : State) : (s.record c).calls = s.calls ++ [c] := rfl
@[simp] theorem State.record_bools (c : ChipCall) (s : State) : (s.record c).bools = s.bools := rfl
@[simp] theorem State.record_words (c : ChipCall) (s : State) : (s.record c).words = s.words := rfl
@[simp] theorem State.record_frames (c : ChipCall) (s : State) : (s.record c).frames = s.frames := rfl
@[simp] theorem State.record_drawn (c : ChipCall) (s : State) : (s.record c).drawn = s.drawn := rfl

@[simp] theorem State.dropBool_cfg (s : State) : (s.dropBool).cfg = s.cfg := rfl
@[simp] theorem State.dropBool_occ (s : State) : (s.dropBool).occ = s.occ := rfl
@[simp] theorem State.dropBool_head (s : State) : (s.dropBool).head = s.head := rfl
@[simp] theorem State.dropBool_tail (s : State) : (s.dropBool).tail = s.tail := rfl
@[simp] theorem State.dropBool_lost (s : State) : (s.dropBool).lost = s.lost := rfl
@[simp] theorem State.dropBool_mode (s : State) : (s.dropBool).mode = s.mode := rfl
@[simp] theorem State.dropBool_addr (s : State) : (s.dropBool).addr = s.addr := rfl
@[simp] theorem State.dropBool_txpend (s : State) : (s.dropBool).txpend = s.txpend := rfl
@[simp] theorem State.dropBool_ready (s : State) : (s.dropBool).ready = s.ready := rfl
@[simp] theorem State.dropBool_mem (s : State) : (s.dropBool).mem = s.mem := rfl
@[simp] theorem State.dropBool_phase (s : State) : (s.dropBool).phase = s.phase := rfl
@[simp] theorem State.dropBool_inputs (s : State) : (s.dropBool).inputs = s.inputs := rfl
@[simp] theorem State.dropBool_txd (s : State) : (s.dropBool).txd = s.txd := rfl
@[simp] theorem State.dropBool_rsp (s : State) : (s.dropBool).rsp = s.rsp := rfl
@[simp] theorem State.dropBool_rxd (s : State) : (s.dropBool).rxd = s.rxd := rfl
@[simp] theorem State.dropBool_calls (s : State) : (s.dropBool).calls = s.calls := rfl
@[simp] theorem State.dropBool_bools (s : State) : (s.dropBool).bools = s.bools.tail := rfl
@[simp] theorem State.dropBool_words (s : State) : (s.dropBool).words = s.words := rfl
@[simp] theorem State.dropBool_frames (s : State) : (s.dropBool).frames = s.frames := rfl
@[simp] theorem State.dropBool_drawn (s : State) : (s.dropBool).drawn = s.drawn + 1 := rfl

@[simp] theorem State.dropHalf_cfg (s : State) : (s.dropHalf).cfg = s.cfg := rfl
@[simp] theorem State.dropHalf_occ (s : State) : (s.dropHalf).occ = s.occ := rfl
@[simp] theorem State.dropHalf_head (s : State) : (s.dropHalf).head = s.head := rfl
@[simp] theorem State.dropHalf_tail (s : State) : (s.dropHalf).tail = s.tail := rfl
@[simp] theorem State.dropHalf_lost (s : State) : (s.dropHalf).lost = s.lost := rfl
@[simp] theorem State.dropHalf_mode (s : State) : (s.dropHalf).mode = s.mode := rfl
@[simp] theorem State.dropHalf_addr (s : State) : (s.dropHalf).addr = s.addr := rfl
@[simp] theorem State.dropHalf_txpend (s : State) : (s.dropHalf).txpend = s.txpend := rfl
@[simp] theorem State.dropHalf_ready (s : State) : (s.dropHalf).ready = s.ready := rfl
@[simp] theorem State.dropHalf_mem (s : State) : (s.dropHalf).mem = s.mem := rfl
@[simp] theorem State.dropHalf_phase (s : State) : (s.dropHalf).phase = s.phase := rfl
@[simp] theorem State.dropHalf_inputs (s : State) : (s.dropHalf).inputs = s.inputs := rfl
@[simp] theorem State.dropHalf_txd (s : State) : (s.dropHalf).txd = s.txd := rfl
@[simp] theorem State.dropHalf_rsp (s : State) : (s.dropHalf).rsp = s.rsp := rfl
@[simp] theorem State.dropHalf_rxd (s : State) : (s.dropHalf).rxd = s.rxd := rfl
@[simp] theorem State.dropHalf_calls (s : State) : (s.dropHalf).calls = s.calls := rfl
@[simp] theorem State.dropHalf_bools (s : State) : (s.dropHalf).bools = s.bools := rfl
@[simp] theorem State.dropHalf_words (s : State) : (s.dropHalf).words = s.words.tail := rfl
@[simp] theorem State.dropHalf_frames (s : State) : (s.dropHalf).frames = s.frames := rfl
@[simp] theorem State.dropHalf_drawn (s : State) : (s.dropHalf).drawn = s.drawn + 1 := rfl

@[simp] theorem State.dropFrame_cfg (s : State) : (s.dropFrame).cfg = s.cfg := rfl
@[simp] theorem State.dropFrame_occ (s : State) : (s.dropFrame).occ = s.occ := rfl
@[simp] theorem State.dropFrame_head (s : State) : (s.dropFrame).head = s.head := rfl
@[simp] theorem State.dropFrame_tail (s : State) : (s.dropFrame).tail = s.tail := rfl
@[simp] theorem State.dropFrame_lost (s : State) : (s.dropFrame).lost = s.lost := rfl
@[simp] theorem State.dropFrame_mode (s : State) : (s.dropFrame).mode = s.mode := rfl
@[simp] theorem State.dropFrame_addr (s : State) : (s.dropFrame).addr = s.addr := rfl
@[simp] theorem State.dropFrame_txpend (s : State) : (s.dropFrame).txpend = s.txpend := rfl
@[simp] theorem State.dropFrame_ready (s : State) : (s.dropFrame).ready = s.ready := rfl
@[simp] theorem State.dropFrame_mem (s : State) : (s.dropFrame).mem = s.mem := rfl
@[simp] theorem State.dropFrame_phase (s : State) : (s.dropFrame).phase = s.phase := rfl
@[simp] theorem State.dropFrame_inputs (s : State) : (s.dropFrame).inputs = s.inputs := rfl
@[simp] theorem State.dropFrame_txd (s : State) : (s.dropFrame).txd = s.txd := rfl
@[simp] theorem State.dropFrame_rsp (s : State) : (s.dropFrame).rsp = s.rsp := rfl
@[simp] theorem State.dropFrame_rxd (s : State) : (s.dropFrame).rxd = s.rxd := rfl
@[simp] theorem State.dropFrame_calls (s : State) : (s.dropFrame).calls = s.calls := rfl
@[simp] theorem State.dropFrame_bools (s : State) : (s.dropFrame).bools = s.bools := rfl
@[simp] theorem State.dropFrame_words (s : State) : (s.dropFrame).words = s.words := rfl
@[simp] theorem State.dropFrame_frames (s : State) : (s.dropFrame).frames = s.frames.tail := rfl
@[simp] theorem State.dropFrame_drawn (s : State) : (s.dropFrame).drawn = s.drawn + 1 := rfl

@[simp] theorem hardwareReset_cfg (s : State) : (hardwareReset s).cfg = s.cfg := rfl
@[simp] theorem hardwareReset_occ (s : State) : (hardwareReset s).occ = 0 := rfl
@[simp] theorem hardwareReset_head (s : State) : (hardwareReset s).head = 0 := rfl
@[simp] theorem hardwareReset_tail (s : State) : (hardwareReset s).tail = 0 := rfl
@[simp] theorem hardwareReset_lost (s : State) : (hardwareReset s).lost = 0 := rfl
@[simp] theorem hardwareReset_mode (s : State) : (hardwareReset s).mode = .rx := rfl
@[simp] theorem hardwareReset_addr (s : State) : (hardwareReset s).addr = Config.freeByte s.drawn := rfl
@[simp] theorem hardwareReset_txpend (s : State) : (hardwareReset s).txpend = false := rfl
@[simp] theorem hardwareReset_ready (s : State) : (hardwareReset s).ready = false := rfl
@[simp] theorem hardwareReset_mem (s : State) : (hardwareReset s).mem = [] := rfl
@[simp] theorem hardwareReset_phase (s : State) : (hardwareReset s).phase = .idle := rfl
@[simp] theorem hardwareReset_inputs (s : State) : (hardwareReset s).inputs = s.inputs := rfl
@[simp] theorem hardwareReset_txd (s : State) : (hardwareReset s).txd = s.txd := rfl
@[simp] theorem hardwareReset_rsp (s : State) : (hardwareReset s).rsp = s.rsp := rfl
@[simp] theorem hardwareReset_rxd (s : State) : (hardwareReset s).rxd = s.rxd := rfl
@[simp] theorem hardwareReset_calls (s : State) : (hardwareReset s).calls = s.calls := rfl
@[simp] theorem hardwareReset_bools (s : State) : (hardwareReset s).bools = s.bools := rfl
@[simp] theorem hardwareReset_words (s : State) : (hardwareReset s).words = s.words := rfl
@[simp] theorem hardwareReset_frames (s : State) : (hardwareReset s).frames = s.frames := rfl
@[simp] theorem hardwareReset_drawn (s : State) : (hardwareReset s).drawn = s.drawn + 1 := rfl

@[simp] theorem State.resetWith_cfg (c : Config) : (State.resetWith c).cfg = c := rfl
@[simp] theorem State.resetWith_occ (c : Config) : (State.resetWith c).occ = 0 := rfl
@[simp] theorem State.resetWith_head (c : Config) : (State.resetWith c).head = 0 := rfl
@[simp] theorem State.resetWith_tail (c : Config) : (State.resetWith c).tail = 0 := rfl
@[simp] theorem State.resetWith_lost (c : Config) : (State.resetWith c).lost = 0 := rfl
@[simp] theorem State.resetWith_mode (c : Config) : (State.resetWith c).mode = .rx := rfl
@[simp] theorem State.resetWith_addr (c : Config) : (State.resetWith c).addr = 0 := rfl
@[simp] theorem State.resetWith_txpend (c : Config) : (State.resetWith c).txpend = false := rfl
@[simp] theorem State.resetWith_ready (c : Config) : (State.resetWith c).ready = false := rfl
@[simp] theorem State.resetWith_mem (c : Config) : (State.resetWith c).mem = [] := rfl
@[simp] theorem State.resetWith_phase (c : Config) : (State.resetWith c).phase = .idle := rfl
@[simp] theorem State.resetWith_inputs (c : Config) : (State.resetWith c).inputs = [] := rfl
@[simp] theorem State.resetWith_txd (c : Config) : (State.resetWith c).txd = [] := rfl
@[simp] theorem State.resetWith_rsp (c : Config) : (State.resetWith c).rsp = [] := rfl
@[simp] theorem State.resetWith_rxd (c : Config) : (State.resetWith c).rxd = [] := rfl
@[simp] theorem State.resetWith_calls (c : Config) : (State.resetWith c).calls = [] := rfl
@[simp] theorem State.resetWith_bools (c : Config) : (State.resetWith c).bools = [] := rfl
@[simp] theorem State.resetWith_words (c : Config) : (State.resetWith c).words = [] := rfl
@[simp] theorem State.resetWith_frames (c : Config) : (State.resetWith c).frames = [] := rfl
@[simp] theorem State.resetWith_drawn (c : Config) : (State.resetWith c).drawn = 0 := rfl

@[simp] theorem readFrame_fst (keep : Bool) (s : State) : (readFrame keep s).1 = s.nextFrame := rfl
@[simp] theorem readFrame_snd (keep : Bool) (s : State) :
    (readFrame keep s).2 = (s.dropFrame).record (.readFrame keep) := rfl
@[simp] theorem askBool_fst (c : ChipCall) (s : State) : (askBool c s).1 = s.nextBool := rfl
@[simp] theorem askBool_snd (c : ChipCall) (s : State) : (askBool c s).2 = (s.dropBool).record c := rfl
@[simp] theorem askHalf_fst (c : ChipCall) (s : State) : (askHalf c s).1 = s.nextHalf := rfl
@[simp] theorem askHalf_snd (c : ChipCall) (s : State) : (askHalf c s).2 = (s.dropHalf).record c := rfl

@[simp] theorem State.nextBool_cons (s : State) (b : Bool) (bs : List Bool) (h : s.bools = b :: bs) :
    s.nextBool = b := by simp [State.nextBool, h]
@[simp] theorem State.nextHalf_cons (s : State) (w : Half) (ws : List Half) (h : s.words = w :: ws) :
    s.nextHalf = w := by simp [State.nextHalf, h]
@[simp] theorem State.nextFrame_cons (s : State) (f : ChipFrame) (fs : List ChipFrame)
    (h : s.frames = f :: fs) : s.nextFrame = f := by simp [State.nextFrame, h]

end Sys2Proof.Machine
end

