-- ==== Sys2Proof/Laws/Memory.lean ====
section
/-! SUPPORT. The laws of SLOTMEM: a read after a write, that writes keep the canonical form, and what
writing a whole slot does. -/

namespace Sys2Proof.Machine

@[simp] theorem Memory.get_nil (a : Nat) : Memory.get [] a = Memory.unlisted := rfl

theorem Memory.get_cons (b : Nat) (v : Byte) (m : Memory) (a : Nat) :
    Memory.get ((b, v) :: m) a = if a = b then v else Memory.get m a := rfl

theorem Memory.wfAbove_cons (a : Nat) (v : Byte) (m : Memory) (low : Nat) :
    Memory.wfAbove ((a, v) :: m) low = true ↔
      low ≤ a ∧ v ≠ Memory.unlisted ∧ Memory.wfAbove m (a + 1) = true := by
  simp only [Memory.wfAbove, Bool.and_eq_true, decide_eq_true_eq, and_assoc]

theorem Memory.wfAbove_mono {m : Memory} {low low' : Nat} (h : Memory.wfAbove m low = true)
    (hl : low' ≤ low) : Memory.wfAbove m low' = true := by
  cases m with
  | nil => rfl
  | cons c m =>
    obtain ⟨a, v⟩ := c
    rw [Memory.wfAbove_cons] at h ⊢
    exact ⟨by omega, h.2⟩

/-- Below its lowest address a memory reads as unlisted. -/
theorem Memory.get_below {m : Memory} {low a : Nat} (h : Memory.wfAbove m low = true) (ha : a < low) :
    Memory.get m a = Memory.unlisted := by
  induction m generalizing low with
  | nil => rfl
  | cons c m ih =>
    obtain ⟨b, v⟩ := c
    rw [Memory.wfAbove_cons] at h
    rw [Memory.get_cons, if_neg (by omega)]
    exact ih h.2.2 (by omega)

/-- A read after a write, in a canonical memory. -/
theorem Memory.get_set {m : Memory} {low : Nat} (h : Memory.wfAbove m low = true) (a : Nat) (v : Byte)
    (x : Nat) : Memory.get (Memory.set m a v) x = if x = a then v else Memory.get m x := by
  induction m generalizing low with
  | nil =>
    unfold Memory.set
    split <;> simp_all [Memory.get_cons]
  | cons c m ih =>
    obtain ⟨b, w⟩ := c
    rw [Memory.wfAbove_cons] at h
    have hb : x ≤ b → Memory.get m x = Memory.unlisted := fun hx => Memory.get_below h.2.2 (by omega)
    have ih := ih h.2.2
    unfold Memory.set
    by_cases hlt : a < b
    · rw [if_pos hlt]
      by_cases hv : v = Memory.unlisted
      · rw [if_pos hv]
        by_cases hx : x = a
        · rw [if_pos hx, Memory.get_cons, if_neg (by omega), hb (by omega), hv]
        · rw [if_neg hx]
      · rw [if_neg hv, Memory.get_cons]
    · rw [if_neg hlt]
      by_cases heq : a = b
      · rw [if_pos heq]
        by_cases hv : v = Memory.unlisted
        · rw [if_pos hv, Memory.get_cons]
          by_cases hx : x = a
          · rw [if_pos hx, hb (by omega), hv]
          · rw [if_neg hx, if_neg (by omega)]
        · rw [if_neg hv, Memory.get_cons, Memory.get_cons]
          by_cases hx : x = a
          · rw [if_pos hx, if_pos hx]
          · rw [if_neg hx, if_neg hx, if_neg (by omega)]
      · rw [if_neg heq, Memory.get_cons, Memory.get_cons, ih]
        by_cases hx : x = b
        · rw [if_pos hx, if_pos hx, if_neg (by omega)]
        · rw [if_neg hx, if_neg hx]

theorem Memory.set_wfAbove {m : Memory} {low a : Nat} (h : Memory.wfAbove m low = true) (ha : low ≤ a)
    (v : Byte) : Memory.wfAbove (Memory.set m a v) low = true := by
  induction m generalizing low with
  | nil =>
    unfold Memory.set
    split
    · rfl
    · rw [Memory.wfAbove_cons]
      exact ⟨ha, ‹_›, rfl⟩
  | cons c m ih =>
    obtain ⟨b, w⟩ := c
    have h' := h
    rw [Memory.wfAbove_cons] at h'
    unfold Memory.set
    split_ifs with h1 h2 h3 h4
    · exact h
    · rw [Memory.wfAbove_cons, Memory.wfAbove_cons]
      exact ⟨ha, h2, by omega, h'.2⟩
    · exact Memory.wfAbove_mono h'.2.2 (by omega)
    · rw [Memory.wfAbove_cons]
      exact ⟨ha, h4, h3 ▸ h'.2.2⟩
    · rw [Memory.wfAbove_cons]
      exact ⟨h'.1, h'.2.1, ih h'.2.2 (by omega)⟩

/-- A write keeps the canonical form. -/
theorem Memory.set_wf {m : Memory} (h : m.wf = true) (a : Nat) (v : Byte) : (m.set a v).wf = true :=
  Memory.set_wfAbove h (Nat.zero_le a) v

theorem Memory.get_set_wf {m : Memory} (h : m.wf = true) (a : Nat) (v : Byte) (x : Nat) :
    (m.set a v).get x = if x = a then v else m.get x := Memory.get_set h a v x

theorem Memory.inside_cons (a : Nat) (v : Byte) (m : Memory) (size : Nat) :
    Memory.inside ((a, v) :: m) size = true ↔ a < size ∧ Memory.inside m size = true := by
  simp [Memory.inside]

theorem Memory.set_inside {m : Memory} {size a : Nat} (h : m.inside size = true) (ha : a < size)
    (v : Byte) : (m.set a v).inside size = true := by
  induction m with
  | nil =>
    unfold Memory.set
    split <;> simp_all [Memory.inside]
  | cons c m ih =>
    obtain ⟨b, w⟩ := c
    rw [Memory.inside_cons] at h
    have ih := ih h.2
    unfold Memory.set
    split_ifs
    · exact (Memory.inside_cons b w m size).2 h
    · exact (Memory.inside_cons a v _ size).2 ⟨ha, (Memory.inside_cons b w m size).2 h⟩
    · exact h.2
    · exact (Memory.inside_cons a v m size).2 ⟨ha, h.2⟩
    · exact (Memory.inside_cons b w _ size).2 ⟨h.1, ih⟩

theorem Memory.setBytes_wf {m : Memory} (h : m.wf = true) (a : Nat) (bs : List Byte) :
    (m.setBytes a bs).wf = true := by
  induction bs generalizing m a with
  | nil => exact h
  | cons b bs ih => exact ih (Memory.set_wf h a b) (a + 1)

theorem Memory.setBytes_inside {m : Memory} {size a : Nat} (h : m.inside size = true) (bs : List Byte)
    (ha : a + bs.length ≤ size) : (m.setBytes a bs).inside size = true := by
  induction bs generalizing m a with
  | nil => exact h
  | cons b bs ih =>
    simp only [List.length_cons] at ha
    exact ih (Memory.set_inside h (by omega) b) (by omega)

/-- Writing consecutive bytes changes those bytes and no other. -/
theorem Memory.get_setBytes {m : Memory} (h : m.wf = true) (a : Nat) (bs : List Byte) (x : Nat) :
    (m.setBytes a bs).get x = if a ≤ x ∧ x < a + bs.length then bs.getD (x - a) 0 else m.get x := by
  induction bs generalizing m a with
  | nil => rw [if_neg (by simp)]; rfl
  | cons b bs ih =>
    show ((m.set a b).setBytes (a + 1) bs).get x = _
    rw [ih (Memory.set_wf h a b) (a + 1), Memory.get_set_wf h, List.length_cons]
    by_cases hx : x = a
    · subst hx
      rw [if_neg (by omega), if_pos rfl, if_pos (by omega)]
      simp
    · by_cases hin : a + 1 ≤ x ∧ x < a + 1 + bs.length
      · rw [if_pos hin, if_pos (by omega), show x - a = (x - (a + 1)) + 1 by omega, List.getD_cons_succ]
      · rw [if_neg hin, if_neg hx, if_neg (by omega)]

/-- The slots are disjoint stretches of SLOTMEM: a byte of slot `i` is no byte of another slot. -/
theorem slot_disjoint {size i k j l : Nat} (hj : j < size) (hl : l < size) (h : i ≠ k) :
    i * size + j ≠ k * size + l := by
  intro he
  rcases Nat.lt_or_gt_of_ne h with hlt | hlt
  · have := Nat.mul_le_mul_right size (Nat.succ_le_of_lt hlt)
    rw [Nat.succ_mul] at this
    omega
  · have := Nat.mul_le_mul_right size (Nat.succ_le_of_lt hlt)
    rw [Nat.succ_mul] at this
    omega

/-- A byte of a slot in 0 .. N-1 lies in SLOTMEM (20_memory R62). -/
theorem slot_inside {size n i j : Nat} (hi : i < n) (hj : j < size) : i * size + j < n * size := by
  have := Nat.mul_le_mul_right size (Nat.succ_le_of_lt hi)
  rw [Nat.succ_mul] at this
  omega

/-- What `writeSlot` does when it does anything (40_queue_ops R120 p1). -/
theorem writeSlot_some {i : Nat} {bytes : List Byte} {s t : State} (h : writeSlot i bytes s = some t) :
    i < s.cfg.n ∧
      t = { s with
        mem := (s.mem.set (slotLenAddr s.cfg i) (lenByte bytes)).setBytes (slotDataAddr s.cfg i 0) bytes } := by
  unfold writeSlot at h
  split at h
  · exact ⟨‹_›, by simpa using h.symm⟩
  · cases h

/-- Reading a byte after a slot was written. -/
theorem get_written {m : Memory} (h : m.wf = true) (c : Config) (i : Nat) (bytes : List Byte) (x : Nat) :
    ((m.set (slotLenAddr c i) (lenByte bytes)).setBytes (slotDataAddr c i 0) bytes).get x =
      if x = slotLenAddr c i then lenByte bytes
      else if slotDataAddr c i 0 ≤ x ∧ x < slotDataAddr c i 0 + bytes.length then
        bytes.getD (x - slotDataAddr c i 0) 0
      else m.get x := by
  rw [Memory.get_setBytes (Memory.set_wf h _ _), Memory.get_set_wf h]
  have hd : slotDataAddr c i 0 = slotLenAddr c i + 1 := rfl
  by_cases hx : x = slotLenAddr c i
  · rw [if_neg (by omega), if_pos hx, if_pos hx]
  · rw [if_neg hx, if_neg hx]

end Sys2Proof.Machine
end

