-- ==== Sys2Proof/Laws/Ops.lean ====
section
/-! SUPPORT. One lemma per shared operation, saying once everything it can do: the port's guard, a
response, the push, the handler, the poll. -/

namespace Sys2Proof.Machine

@[simp] theorem andThen_of_next (t : State) (k : State → Result) : andThen (.next t) k = k t := rfl

theorem andThen_next {r : Result} {k : State → Result} {t : State} :
    andThen r k = .next t ↔ ∃ u, r = .next u ∧ k u = .next t := by
  cases r <;> simp [andThen]

@[simp] theorem goto_eq (p : Phase) (s : State) : goto p s = .next { s with phase := p } := rfl

@[simp] theorem respond_eq (st : Status) (rv : Half) (s : State) :
    respond st rv s = .next { s with phase := .idle, rsp := s.rsp ++ [⟨st, rv⟩] } := rfl

@[simp] theorem respondIllegal_eq (s : State) :
    respondIllegal s = .next { s with phase := .idle, rsp := s.rsp ++ [⟨.illegal, 0⟩] } := rfl

/-- With no operation in progress a command's micro-step is taken. -/
theorem onPort_idle {i : Instr} {s : State} (h : s.phase = .idle) (k : Result) : onPort i s k = k := by
  simp [onPort, h, Phase.instr]

/-- So is a micro-step of the operation in progress. -/
theorem onPort_own {i : Instr} {s : State} (h : s.phase.instr = some i) (k : Result) :
    onPort i s k = k := by
  simp [onPort, h]

/-- Another command is not a move (70_reset R276). -/
theorem onPort_busy {i j : Instr} {s : State} (h : s.phase.instr = some j) (hne : j ≠ i) (k : Result) :
    onPort i s k = .refused .portBusy := by
  simp [onPort, h, hne]

/-- A next state behind the guard comes from the guarded micro-step. -/
theorem onPort_next {i : Instr} {s t : State} {k : Result} (h : onPort i s k = .next t) :
    k = .next t ∧ (s.phase.instr = none ∨ s.phase.instr = some i) := by
  unfold onPort at h
  cases hp : s.phase.instr with
  | none => simp_all
  | some j =>
    simp only [hp] at h
    split at h
    · exact ⟨h, .inr (by simp_all)⟩
    · cases h

theorem phase_instr_none {p : Phase} : p.instr = none ↔ p = .idle := by
  cases p <;> simp [Phase.instr]

/-- The state after a successful push (40_queue_ops R120). -/
def afterPush (bytes : List Byte) (s : State) : State :=
  { s with
    mem := (s.mem.set (slotLenAddr s.cfg s.tail.toNat) (lenByte bytes)).setBytes
      (slotDataAddr s.cfg s.tail.toNat 0) bytes
    tail := nextIndex s.cfg s.tail
    occ := BitVec.ofNat 8 (s.occ.toNat + 1) }

/-- A push into a queue that is not full, its TAIL in range, stores the frame. -/
theorem qPush_room {bytes : List Byte} {s : State} (hfull : s.occ.toNat ≠ s.cfg.n)
    (htail : s.tail.toNat < s.cfg.n) : qPush bytes s = some (true, afterPush bytes s) := by
  simp [qPush, State.full, hfull, writeSlot, htail, afterPush]

/-- A failed push changes nothing (40_queue_ops R120). -/
theorem qPush_full {bytes : List Byte} {s : State} (hfull : s.occ.toNat = s.cfg.n) :
    qPush bytes s = some (false, s) := by
  simp [qPush, State.full, hfull]

theorem qPush_some {bytes : List Byte} {s t : State} {ok : Bool} (h : qPush bytes s = some (ok, t)) :
    (s.occ.toNat = s.cfg.n ∧ ok = false ∧ t = s) ∨
      (s.occ.toNat ≠ s.cfg.n ∧ s.tail.toNat < s.cfg.n ∧ ok = true ∧ t = afterPush bytes s) := by
  by_cases hfull : s.occ.toNat = s.cfg.n
  · rw [qPush_full hfull] at h
    simp_all
  · by_cases htail : s.tail.toNat < s.cfg.n
    · rw [qPush_room hfull htail] at h
      simp_all
    · simp [qPush, State.full, hfull, writeSlot, htail] at h

/-- The state after one frame was drained in the handler's RX path. -/
def afterDrain (keep : Bool) (s : State) : State :=
  (s.record .irqHousekeeping).dropFrame.record (.readFrame keep)

/-! Draining a frame, and reading the line, change no register and no slot. -/

@[simp] theorem afterDrain_cfg (keep : Bool) (s : State) : (afterDrain keep s).cfg = s.cfg := by
  simp [afterDrain]
@[simp] theorem afterDrain_occ (keep : Bool) (s : State) : (afterDrain keep s).occ = s.occ := by
  simp [afterDrain]
@[simp] theorem afterDrain_head (keep : Bool) (s : State) : (afterDrain keep s).head = s.head := by
  simp [afterDrain]
@[simp] theorem afterDrain_tail (keep : Bool) (s : State) : (afterDrain keep s).tail = s.tail := by
  simp [afterDrain]
@[simp] theorem afterDrain_lost (keep : Bool) (s : State) : (afterDrain keep s).lost = s.lost := by
  simp [afterDrain]
@[simp] theorem afterDrain_mode (keep : Bool) (s : State) : (afterDrain keep s).mode = s.mode := by
  simp [afterDrain]
@[simp] theorem afterDrain_addr (keep : Bool) (s : State) : (afterDrain keep s).addr = s.addr := by
  simp [afterDrain]
@[simp] theorem afterDrain_txpend (keep : Bool) (s : State) : (afterDrain keep s).txpend = s.txpend := by
  simp [afterDrain]
@[simp] theorem afterDrain_ready (keep : Bool) (s : State) : (afterDrain keep s).ready = s.ready := by
  simp [afterDrain]
@[simp] theorem afterDrain_mem (keep : Bool) (s : State) : (afterDrain keep s).mem = s.mem := by
  simp [afterDrain]
@[simp] theorem afterDrain_phase (keep : Bool) (s : State) : (afterDrain keep s).phase = s.phase := by
  simp [afterDrain]

@[simp] theorem nextFrame_record (c : ChipCall) (s : State) : (s.record c).nextFrame = s.nextFrame := rfl
@[simp] theorem nextBool_record (c : ChipCall) (s : State) : (s.record c).nextBool = s.nextBool := rfl

/-- F = 0 in MODE = RX: the housekeeping is called and nothing else happens (41_irq_handler R152). -/
theorem takeInterrupt_noFrame {s : State} (hm : s.mode = .rx) :
    takeInterrupt false s = .next (s.record .irqHousekeeping) := by
  simp [takeInterrupt, hm, handlerRx]

/-- A frame with room for it is stored (41_irq_handler R152). -/
theorem takeInterrupt_store {s : State} (hm : s.mode = .rx) (hroom : s.occ.toNat < s.cfg.n)
    (htail : s.tail.toNat < s.cfg.n) :
    takeInterrupt true s = .next (afterPush s.framePayload (afterDrain true s)) := by
  have hp := qPush_room (s := afterDrain true s) (bytes := s.framePayload)
    (show s.occ.toNat ≠ s.cfg.n by omega) htail
  simp only [takeInterrupt, hm, handlerRx, if_pos, State.record_occ, State.record_cfg, hroom, readFrame]
  change (match qPush s.framePayload (afterDrain true s) with
    | some (_, t) => (.next t : Result)
    | none => .fault .outsideSlotmem) = _
  rw [hp]

/-- A frame that finds no room is drained, discarded and counted (41_irq_handler R153). -/
theorem takeInterrupt_discard {s : State} (hm : s.mode = .rx) (hfull : s.cfg.n ≤ s.occ.toNat) :
    takeInterrupt true s = .next { afterDrain false s with lost := lostSucc s.lost } := by
  have hroom : ¬ (s.record .irqHousekeeping).occ.toNat < (s.record .irqHousekeeping).cfg.n :=
    show ¬ s.occ.toNat < s.cfg.n by omega
  simp only [takeInterrupt, hm, handlerRx, if_pos, readFrame]
  rw [if_neg hroom]
  rfl

/-- A frame for a TAIL that names no slot would leave SLOTMEM. -/
theorem takeInterrupt_outside {s : State} (hm : s.mode = .rx) (hroom : s.occ.toNat < s.cfg.n)
    (htail : ¬ s.tail.toNat < s.cfg.n) : takeInterrupt true s = .fault .outsideSlotmem := by
  have hne : s.occ.toNat ≠ s.cfg.n := by omega
  have hp : ∀ bytes, qPush bytes (afterDrain true s) = none := fun bytes => by
    simp [qPush, State.full, afterDrain, hne, writeSlot, htail]
  simp only [takeInterrupt, hm, handlerRx, if_pos, State.record_occ, State.record_cfg, hroom, readFrame]
  change (match qPush s.framePayload (afterDrain true s) with
    | some (_, t) => (.next t : Result)
    | none => .fault .outsideSlotmem) = _
  rw [hp]

/-- In MODE = TX the transmission is complete, whatever F is (41_irq_handler R154). -/
theorem takeInterrupt_txDone {f : Bool} {s : State} (hm : s.mode = .tx) :
    takeInterrupt f s = .next { s with txpend := false, mode := .rx } := by
  simp [takeInterrupt, hm, handlerTx]

/-- In a low-power mode there is no invocation (41_irq_handler R155). -/
theorem takeInterrupt_lowPower {f : Bool} {s : State} (hm : s.mode.active = false) :
    takeInterrupt f s = .fault .irqNotEnabled := by
  cases hmode : s.mode <;> simp_all [Mode.active, takeInterrupt]

/-- Everything one handler invocation can do (41_irq_handler R151). -/
theorem takeInterrupt_next {f : Bool} {s t : State} (h : takeInterrupt f s = .next t) :
    (s.mode = .rx ∧ f = false ∧ t = s.record .irqHousekeeping) ∨
      (s.mode = .rx ∧ f = true ∧ s.occ.toNat < s.cfg.n ∧ s.tail.toNat < s.cfg.n ∧
        t = afterPush s.framePayload (afterDrain true s)) ∨
      (s.mode = .rx ∧ f = true ∧ s.cfg.n ≤ s.occ.toNat ∧
        t = { afterDrain false s with lost := lostSucc s.lost }) ∨
      (s.mode = .tx ∧ t = { s with txpend := false, mode := .rx }) := by
  by_cases hrx : s.mode = .rx
  · cases f
    · rw [takeInterrupt_noFrame hrx] at h
      exact .inl ⟨hrx, rfl, by simpa using h.symm⟩
    · by_cases hroom : s.occ.toNat < s.cfg.n
      · by_cases htail : s.tail.toNat < s.cfg.n
        · rw [takeInterrupt_store hrx hroom htail] at h
          exact .inr (.inl ⟨hrx, rfl, hroom, htail, (Host.Outcome.next.inj h).symm⟩)
        · rw [takeInterrupt_outside hrx hroom htail] at h
          cases h
      · rw [takeInterrupt_discard hrx (by omega)] at h
        exact .inr (.inr (.inl ⟨hrx, rfl, by omega, (Host.Outcome.next.inj h).symm⟩))
  · by_cases htx : s.mode = .tx
    · rw [takeInterrupt_txDone htx] at h
      exact .inr (.inr (.inr ⟨htx, (Host.Outcome.next.inj h).symm⟩))
    · rw [takeInterrupt_lowPower (by cases hm : s.mode <;> simp_all [Mode.active])] at h
      cases h

/-- A handler invocation with MODE active, and TAIL in range, completes. -/
theorem takeInterrupt_completes {f : Bool} {s : State} (hm : s.mode.active = true)
    (htail : s.tail.toNat < s.cfg.n) : ∃ t, takeInterrupt f s = .next t := by
  by_cases htx : s.mode = .tx
  · exact ⟨_, takeInterrupt_txDone htx⟩
  · have hrx : s.mode = .rx := by cases h : s.mode <;> simp_all [Mode.active]
    cases f
    · exact ⟨_, takeInterrupt_noFrame hrx⟩
    · by_cases hroom : s.occ.toNat < s.cfg.n
      · exact ⟨_, takeInterrupt_store hrx hroom htail⟩
      · exact ⟨_, takeInterrupt_discard hrx (by omega)⟩

/-- The state after the line was read (40_queue_ops R125). -/
def afterLine (s : State) : State := s.dropBool.record .irqLine

@[simp] theorem afterLine_cfg (s : State) : (afterLine s).cfg = s.cfg := by simp [afterLine]
@[simp] theorem afterLine_occ (s : State) : (afterLine s).occ = s.occ := by simp [afterLine]
@[simp] theorem afterLine_head (s : State) : (afterLine s).head = s.head := by simp [afterLine]
@[simp] theorem afterLine_tail (s : State) : (afterLine s).tail = s.tail := by simp [afterLine]
@[simp] theorem afterLine_lost (s : State) : (afterLine s).lost = s.lost := by simp [afterLine]
@[simp] theorem afterLine_mode (s : State) : (afterLine s).mode = s.mode := by simp [afterLine]
@[simp] theorem afterLine_addr (s : State) : (afterLine s).addr = s.addr := by simp [afterLine]
@[simp] theorem afterLine_txpend (s : State) : (afterLine s).txpend = s.txpend := by simp [afterLine]
@[simp] theorem afterLine_ready (s : State) : (afterLine s).ready = s.ready := by simp [afterLine]
@[simp] theorem afterLine_mem (s : State) : (afterLine s).mem = s.mem := by simp [afterLine]
@[simp] theorem afterLine_phase (s : State) : (afterLine s).phase = s.phase := by simp [afterLine]

theorem handlerInUse_iff {s : State} :
    s.handlerInUse = true ↔ s.cfg.buffered = true ∧ s.ready = true ∧ s.mode.active = true := by
  simp [State.handlerInUse, and_assoc]

theorem handlerInUse_mode {s : State} (h : s.handlerInUse = true) : s.mode = .rx ∨ s.mode = .tx := by
  have hm := (handlerInUse_iff.1 h).2.2
  cases hs : s.mode <;> simp_all [Mode.active]

theorem irqEnabled_iff {s : State} : s.irqEnabled = true ↔
    s.cfg.irqPolled = false ∧ s.cfg.buffered = true ∧ s.ready = true ∧ s.mode.active = true := by
  simp [State.irqEnabled, State.handlerInUse, and_assoc]

/-- `poll_service()` does nothing in direct mode, with READY = 0 or in a low-power mode (40_queue_ops R125). -/
theorem pollService_off {s : State} (h : s.handlerInUse = false) : pollService s = .next s := by
  simp [pollService, h]

/-- It does nothing more than read a line that is not asserted. -/
theorem pollService_quiet {s : State} (h : s.handlerInUse = true) (hb : s.nextBool = false) :
    pollService s = .next (afterLine s) := by
  simp only [pollService, h, if_pos, askBool, hb]
  rfl

/-- An asserted line in MODE = RX: one invocation, F being the housekeeping's answer. -/
theorem pollService_rx {s : State} (h : s.handlerInUse = true) (hb : s.nextBool = true)
    (hm : s.mode = .rx) :
    pollService s = takeInterrupt (afterLine s).nextBool (afterLine s).dropBool := by
  unfold pollService
  rw [if_pos h]
  simp only [askBool, hb, if_pos, State.record_mode, State.dropBool_mode, hm]
  rfl

/-- An asserted line in MODE = TX: the pending send is complete. -/
theorem pollService_tx {s : State} (h : s.handlerInUse = true) (hb : s.nextBool = true)
    (hm : s.mode = .tx) : pollService s = .next { afterLine s with txpend := false, mode := .rx } := by
  unfold pollService
  rw [if_pos h]
  simp only [askBool, hb, if_pos, State.record_mode, State.dropBool_mode, hm]
  exact takeInterrupt_txDone (by simpa using hm)

/-- An asserted line in MODE = RX, a complete frame and room for it: the delivered frame is stored. The line
and F are answered before the frame is read. -/
theorem pollService_store {s : State} (h : s.handlerInUse = true) (hb : s.nextBool = true) (hm : s.mode = .rx)
    (hf : s.dropBool.nextBool = true) (hroom : s.occ.toNat < s.cfg.n) (htail : s.tail.toNat < s.cfg.n) :
    pollService s =
      .next (afterPush s.dropBool.dropBool.framePayload (afterDrain true (afterLine s).dropBool)) := by
  rw [pollService_rx h hb hm, show (afterLine s).nextBool = true from hf]
  exact takeInterrupt_store (s := (afterLine s).dropBool) hm hroom htail

/-- Everything `poll_service()` can do (40_queue_ops R125). -/
theorem pollService_next {s t : State} (h : pollService s = .next t) :
    (s.handlerInUse = false ∧ t = s) ∨
      (s.handlerInUse = true ∧ s.nextBool = false ∧ t = afterLine s) ∨
      (s.handlerInUse = true ∧ s.nextBool = true ∧ s.mode = .rx ∧
        takeInterrupt (afterLine s).nextBool (afterLine s).dropBool = .next t) ∨
      (s.handlerInUse = true ∧ s.nextBool = true ∧ s.mode = .tx ∧
        t = { afterLine s with txpend := false, mode := .rx }) := by
  cases hg : s.handlerInUse
  · rw [pollService_off hg] at h
    exact .inl ⟨rfl, (Host.Outcome.next.inj h).symm⟩
  · cases hb : s.nextBool
    · rw [pollService_quiet hg hb] at h
      exact .inr (.inl ⟨rfl, rfl, (Host.Outcome.next.inj h).symm⟩)
    · by_cases hrx : s.mode = .rx
      · rw [pollService_rx hg hb hrx] at h
        exact .inr (.inr (.inl ⟨rfl, rfl, hrx, h⟩))
      · have htx := (handlerInUse_mode hg).resolve_left hrx
        rw [pollService_tx hg hb htx] at h
        exact .inr (.inr (.inr ⟨rfl, rfl, htx, (Host.Outcome.next.inj h).symm⟩))

/-- A poll with TAIL in range completes. -/
theorem pollService_completes {s : State} (htail : s.tail.toNat < s.cfg.n) :
    ∃ t, pollService s = .next t := by
  cases hg : s.handlerInUse
  · exact ⟨s, pollService_off hg⟩
  · cases hb : s.nextBool
    · exact ⟨_, pollService_quiet hg hb⟩
    · by_cases hrx : s.mode = .rx
      · rw [pollService_rx hg hb hrx]
        exact takeInterrupt_completes (by simp [afterLine, hrx, Mode.active]) (by simpa [afterLine] using htail)
      · exact ⟨_, pollService_tx hg hb ((handlerInUse_mode hg).resolve_left hrx)⟩

end Sys2Proof.Machine
end

