-- ==== Sys2Proof/Laws/Encoding.lean ====
section
/-! SUPPORT. The fields of an assembled command word, and the fields of any word as numbers (30_encoding
R90). -/

namespace Sys2Proof

/-- Bit `i` of a command word assembled from its bytes. -/
theorem commandWord_bit (op a b c : Byte) (i : Nat) :
    (commandWord op a b c).getLsbD i =
      if i < 8 then op.getLsbD i else if i < 16 then a.getLsbD (i - 8)
      else if i < 24 then b.getLsbD (i - 16) else c.getLsbD (i - 24) := by
  change BitVec.getLsbD (w := 8 + 8 + 8 + 8) (c ++ b ++ a ++ op) i = _
  simp only [BitVec.getLsbD_append, Nat.sub_sub]
  split_ifs <;> first | rfl | omega

theorem opField_commandWord (op a b c : Byte) : opField (commandWord op a b c) = op := by
  refine BitVec.eq_of_getLsbD_eq fun i hi => ?_
  rw [opField, BitVec.getLsbD_extractLsb', commandWord_bit, if_pos (by omega), Nat.zero_add]
  simp [hi]

theorem aField_commandWord (op a b c : Byte) : aField (commandWord op a b c) = a := by
  refine BitVec.eq_of_getLsbD_eq fun i hi => ?_
  rw [aField, BitVec.getLsbD_extractLsb', commandWord_bit, if_neg (by omega), if_pos (by omega)]
  simp [hi]

theorem bField_commandWord (op a b c : Byte) : bField (commandWord op a b c) = b := by
  refine BitVec.eq_of_getLsbD_eq fun i hi => ?_
  rw [bField, BitVec.getLsbD_extractLsb', commandWord_bit, if_neg (by omega), if_neg (by omega),
    if_pos (by omega)]
  simp [hi]

theorem cField_commandWord (op a b c : Byte) : cField (commandWord op a b c) = c := by
  refine BitVec.eq_of_getLsbD_eq fun i hi => ?_
  rw [cField, BitVec.getLsbD_extractLsb', commandWord_bit, if_neg (by omega), if_neg (by omega),
    if_neg (by omega)]
  simp [hi]

theorem opField_toNat (w : CmdWord) : (opField w).toNat = w.toNat % 256 := by
  simp [opField, BitVec.extractLsb'_toNat]

theorem aField_toNat (w : CmdWord) : (aField w).toNat = w.toNat / 256 % 256 := by
  simp [aField, BitVec.extractLsb'_toNat, Nat.shiftRight_eq_div_pow]

/-- An event byte decodes to an interrupt. -/
theorem decode_ev {e : Byte} {i : Instr} (h : decode (.ev e) = .ok i) : ∃ f, i = .irq f := by
  simp only [decode, decodeEvent] at h
  split at h
  · exact ⟨_, (Except.ok.inj h).symm⟩
  · cases h

end Sys2Proof

namespace Sys2Proof.Machine

/-- A command word decodes to an operation of the MAIN port. -/
theorem decode_cw {w : CmdWord} {i : Instr} (h : decode (.cw w) = .ok i) : isMain i = true := by
  simp only [decode, decodeCommand] at h
  split at h <;> simp only [Except.ok.injEq, reduceCtorEq] at h <;> subst h <;> rfl

end Sys2Proof.Machine
end

