-- ==== Sys2Proof/Laws/Moves.lean ====
section
/-! SUPPORT. Everything a step can do, said once: `Move i s t` lists the micro-steps of the operations and
the handler's invocation with their effects, and `step_cases` says where a step comes from. An invariant or
a whole-machine rule is proved by cases on these. -/

namespace Sys2Proof.Machine

/-- Only the collaborator's answers and the record of calls differ, and no call read a frame. -/
structure AskedOnly (s t : State) : Prop where
  same : t = { s with bools := t.bools, words := t.words, drawn := t.drawn, calls := t.calls }
  reads : ∀ keep, readCount keep t.calls = readCount keep s.calls

theorem readCount_append (keep : Bool) (xs ys : List ChipCall) :
    readCount keep (xs ++ ys) = readCount keep xs + readCount keep ys := List.count_append

theorem AskedOnly.refl (s : State) : AskedOnly s s := ⟨rfl, fun _ => rfl⟩

theorem AskedOnly.trans {s t u : State} (h : AskedOnly s t) (h' : AskedOnly t u) : AskedOnly s u :=
  ⟨by rw [h'.same, h.same], fun keep => (h'.reads keep).trans (h.reads keep)⟩

theorem AskedOnly.dropBool (s : State) : AskedOnly s s.dropBool := ⟨rfl, fun _ => rfl⟩
theorem AskedOnly.dropHalf (s : State) : AskedOnly s s.dropHalf := ⟨rfl, fun _ => rfl⟩

theorem AskedOnly.record (s : State) {c : ChipCall} (hc : ∀ keep, c ≠ .readFrame keep) :
    AskedOnly s (s.record c) := by
  refine ⟨rfl, fun keep => ?_⟩
  rw [State.record_calls, readCount_append]
  simp [readCount, hc keep]

/-- A call that reads no frame, answered by a Boolean. -/
theorem AskedOnly.askBool (s : State) {c : ChipCall} (hc : ∀ keep, c ≠ .readFrame keep) :
    AskedOnly s (askBool c s).2 := (AskedOnly.dropBool s).trans (AskedOnly.record _ hc)

/-- A call that reads no frame, answered by a 16-bit value. -/
theorem AskedOnly.askHalf (s : State) {c : ChipCall} (hc : ∀ keep, c ≠ .readFrame keep) :
    AskedOnly s (askHalf c s).2 := (AskedOnly.dropHalf s).trans (AskedOnly.record _ hc)

/-- What one micro-step of operation `i`, or one handler invocation, can do. `u` is `s` after the calls the
move made. -/
inductive Move (s t : State) : Instr → Prop
  /-- A command not accepted (60_exceptions R236). -/
  | illegal (i : Instr) : isMain i = true → s.phase = .idle →
      t = { s with phase := .idle, rsp := s.rsp ++ [⟨.illegal, 0⟩] } → Move s t i
  /-- An answer that changes no register: AVAILABLE, QEMPTY, QFULL, RDCSR and the pass-through family. -/
  | answer (i : Instr) (u : State) (v : Half) : isMain i = true → (s.phase = .idle ∨ s.phase = .availA1) →
      AskedOnly s u → t = { u with phase := .idle, rsp := s.rsp ++ [⟨.done, v⟩] } → Move s t i
  /-- a0 of AVAILABLE on a polled line (40_queue_ops R124). -/
  | poll (u : State) : s.phase = .idle → s.cfg.buffered = true → s.cfg.irqPolled = true →
      pollService s = .next u → t = { u with phase := .availA1 } → Move s t .available
  /-- c0 on an empty queue (40_queue_ops R127). -/
  | none : s.phase = .idle → s.cfg.buffered = true → s.occ.toNat = 0 →
      t = { s with phase := .idle, rsp := s.rsp ++ [⟨.none, 0⟩] } → Move s t .receive
  /-- c0. -/
  | c0 : s.phase = .idle → s.cfg.buffered = true → s.occ.toNat ≠ 0 →
      t = { s with phase := .recvC1 } → Move s t .receive
  /-- c1. -/
  | c1 : s.phase = .recvC1 → t = { s with phase := .recvC2 (s.slotLen s.head.toNat) 0 } → Move s t .receive
  /-- c2[i]. -/
  | c2 (len : Byte) (i : Nat) : s.phase = .recvC2 len i → i < len.toNat →
      t = { s with rxd := s.rxd ++ [s.slotByte s.head.toNat i], phase := .recvC2 len (i + 1) } →
      Move s t .receive
  /-- c3. -/
  | c3 (len : Byte) (i : Nat) : s.phase = .recvC2 len i → len.toNat ≤ i →
      t = { s with head := nextIndex s.cfg s.head, phase := .recvC4 len } → Move s t .receive
  /-- c4. -/
  | c4 (len : Byte) : s.phase = .recvC4 len →
      t = { s with
        occ := BitVec.ofNat 8 (s.occ.toNat - 1), phase := .idle
        rsp := s.rsp ++ [⟨.done, byteResult len⟩] } → Move s t .receive
  /-- u0 of direct mode (40_queue_ops R128). -/
  | u0 : s.phase = .idle → s.cfg.buffered = false →
      t = { s with
        frames := s.frames.tail, drawn := s.drawn + 1, calls := s.calls ++ [.readFrame true]
        phase := .directU (lenByte s.framePayload) s.framePayload s.nextFrame.wantAck } → Move s t .receive
  /-- u1[i]. -/
  | u1 (len b : Byte) (bs : List Byte) (ack : Bool) : s.phase = .directU len (b :: bs) ack →
      t = { s with rxd := s.rxd ++ [b], phase := .directU len bs ack } → Move s t .receive
  /-- u2. -/
  | u2 (len : Byte) (ack : Bool) (u : State) : s.phase = .directU len [] ack → AskedOnly s u →
      t = { u with phase := .idle, rsp := s.rsp ++ [⟨.done, byteResult len⟩] } → Move s t .receive
  /-- INIT, successful (42_mode_ops R171). -/
  | initOk (u : State) : s.phase = .idle → s.nextBool = true → AskedOnly s u →
      t = { u with
        mode := .rx, txpend := false, ready := true, phase := .idle
        rsp := s.rsp ++ [⟨.done, 1⟩] } → Move s t .init
  /-- INIT, failed. -/
  | initFailed (u : State) : s.phase = .idle → s.nextBool = false → AskedOnly s u →
      t = { u with ready := false, phase := .idle, rsp := s.rsp ++ [⟨.done, 0⟩] } → Move s t .init
  /-- s0 (42_mode_ops R172). -/
  | s0 (dest len : Byte) (noack : Bool) : s.phase = .idle → s.ready = true → s.mode.active = true →
      len.toNat ≤ s.cfg.maxFrameLen → t = { s with phase := .sendS1 ⟨dest, len, noack⟩ } →
      Move s t (.send dest len noack)
  /-- s1. -/
  | s1 (op : SendOp) : s.phase = .sendS1 op → op.len.toNat ≤ s.txd.length →
      t = { s with txd := s.txd.drop op.len.toNat, phase := .sendS2 op (s.txd.take op.len.toNat) 0 } →
      Move s t (.send op.dest op.len op.noack)
  /-- s2 with acknowledgment. -/
  | s2 (op : SendOp) (data : List Byte) (a : Nat) : s.phase = .sendS2 op data a → op.noack = false →
      s.mode = .rx →
      t = { s with
        mode := .tx, txpend := true, calls := s.calls ++ [.startTransmit op.dest data op.len true]
        phase := .sendS3 op data a } → Move s t (.send op.dest op.len op.noack)
  /-- s2 without. -/
  | s2End (op : SendOp) (data : List Byte) (a : Nat) : s.phase = .sendS2 op data a → op.noack = true →
      s.mode = .rx →
      t = { s with
        mode := .tx, txpend := true, calls := s.calls ++ [.startTransmit op.dest data op.len false]
        phase := .idle, rsp := s.rsp ++ [⟨.done, 1⟩] } → Move s t (.send op.dest op.len op.noack)
  /-- A held SEND: nothing, or on a polled line a poll. -/
  | hold (op : SendOp) (data : List Byte) (a : Nat) :
      ((s.phase = .sendS2 op data a ∧ s.mode ≠ .rx) ∨ (s.phase = .sendS3 op data a ∧ s.txpend = true)) →
      ((s.cfg.irqPolled = false ∧ t = s) ∨ (s.cfg.irqPolled = true ∧ pollService s = .next t)) →
      Move s t (.send op.dest op.len op.noack)
  /-- s3. -/
  | s3 (op : SendOp) (data : List Byte) (a : Nat) : s.phase = .sendS3 op data a → s.txpend = false →
      t = { s with phase := .sendS4 op data a } → Move s t (.send op.dest op.len op.noack)
  /-- s4 at the end of the operation. -/
  | s4End (op : SendOp) (data : List Byte) (a : Nat) (u : State) (v : Half) : s.phase = .sendS4 op data a →
      AskedOnly s u → t = { u with phase := .idle, rsp := s.rsp ++ [⟨.done, v⟩] } →
      Move s t (.send op.dest op.len op.noack)
  /-- s4 before another attempt. -/
  | s4Again (op : SendOp) (data : List Byte) (a : Nat) (u : State) : s.phase = .sendS4 op data a →
      a < s.cfg.retries → AskedOnly s u → t = { u with phase := .sendS2 op data (a + 1) } →
      Move s t (.send op.dest op.len op.noack)
  /-- SLEEP, STANDBY, POWERDOWN (42_mode_ops R173 to R175). -/
  | lowPower (i : Instr) (u : State) (m : Mode) :
      ((i = .sleep ∧ m = .sleep) ∨ (i = .standby ∧ m = .standby) ∨ (i = .powerdown ∧ m = .powerDown)) →
      s.phase = .idle → s.ready = true → s.mode.active = true → AskedOnly s u →
      t = { u with mode := m, txpend := false, phase := .idle, rsp := s.rsp ++ [⟨.done, 0⟩] } → Move s t i
  /-- POWERUP (42_mode_ops R176). -/
  | powerUp (u : State) : s.phase = .idle → s.ready = true → AskedOnly s u →
      t = { u with
        mode := if s.mode.active then s.mode else .rx, phase := .idle
        rsp := s.rsp ++ [⟨.done, 0⟩] } → Move s t .powerup
  /-- SETADDR (43_facade_passthrough R200). -/
  | setaddr (a : Byte) (u : State) : s.phase = .idle → AskedOnly s u →
      t = { u with addr := a, phase := .idle, rsp := s.rsp ++ [⟨.done, 0⟩] } → Move s t (.setaddr a)
  /-- A handler invocation (41_irq_handler R151). -/
  | irq (f : Bool) : s.irqEnabled = true → takeInterrupt f s = .next t → Move s t (.irq f)

/-- A micro-step behind the port's guard of an operation that has one micro-step only. -/
theorem onPort_single {i : Instr} {s t : State} {k : Result} (h : onPort i s k = .next t)
    (hi : ∀ p : Phase, p.instr ≠ some i) : k = .next t ∧ s.phase = .idle := by
  obtain ⟨hk, hp | hp⟩ := onPort_next h
  · exact ⟨hk, phase_instr_none.1 hp⟩
  · exact absurd hp (hi _)

/-- An operation in progress is AVAILABLE, RECEIVE or SEND; the others have one micro-step. -/
theorem phase_instr_cases {p : Phase} {i : Instr} (h : p.instr = some i) :
    i = .available ∨ i = .receive ∨ ∃ op : SendOp, i = .send op.dest op.len op.noack := by
  cases p <;> simp only [Phase.instr, Option.some.injEq, reduceCtorEq] at h <;> subst h <;>
    first
      | exact .inl rfl
      | exact .inr (.inl rfl)
      | exact .inr (.inr ⟨_, rfl⟩)

theorem availableAnswer_move {s t : State} (hp : s.phase = .idle ∨ s.phase = .availA1)
    (h : availableAnswer s = .next t) : Move s t .available :=
  .answer _ s _ rfl hp (AskedOnly.refl s) (Host.Outcome.next.inj h).symm

theorem available_move {s t : State} (h : exec .available s = .next t) : Move s t .available := by
  obtain ⟨h, hp⟩ := onPort_next (i := .available) h
  cases hph : s.phase <;> simp only [hph, Phase.instr, Option.some.injEq, reduceCtorEq, or_false, or_true,
    or_self] at h hp
  case idle =>
    split at h
    · rename_i hb
      split at h
      · rename_i hpo
        obtain ⟨u, hu, ht⟩ := andThen_next.1 h
        exact .poll u hph hb hpo hu (Host.Outcome.next.inj ht).symm
      · exact availableAnswer_move (.inl hph) h
    · exact .answer _ _ _ rfl (.inl hph) (AskedOnly.askBool s (c := .dataReady) (by simp))
        (Host.Outcome.next.inj h).symm
  case availA1 => exact availableAnswer_move (.inr hph) h

theorem receive_move {s t : State} (h : exec .receive s = .next t) : Move s t .receive := by
  obtain ⟨h, hp⟩ := onPort_next (i := .receive) h
  cases hph : s.phase <;> simp only [hph, Phase.instr, Option.some.injEq, reduceCtorEq, or_false, or_true,
    or_self] at h hp
  case idle =>
    split at h
    · rename_i hb
      unfold receiveC0 State.empty at h
      split at h
      · rename_i ho
        exact .none hph hb (by simpa using ho) (Host.Outcome.next.inj h).symm
      · rename_i ho
        exact .c0 hph hb (by simpa using ho) (Host.Outcome.next.inj h).symm
    · rename_i hb
      exact .u0 hph (by simpa using hb) (Host.Outcome.next.inj h).symm
  case recvC1 =>
    unfold receiveC1 readSlotLen memRead at h
    split at h
    · rename_i len hlen
      split at hlen
      · rw [← Option.some.inj hlen] at h
        exact .c1 hph (Host.Outcome.next.inj h).symm
      · cases hlen
    · cases h
  case recvC2 len i =>
    split at h
    · rename_i hi
      unfold receiveC2 readSlotData memRead at h
      split at h
      · rename_i b hb
        split at hb
        · split at hb
          · rw [← Option.some.inj hb] at h
            exact .c2 len i hph hi (Host.Outcome.next.inj h).symm
          · cases hb
        · cases hb
      · cases h
    · exact .c3 len i hph (by omega) (Host.Outcome.next.inj h).symm
  case recvC4 len => exact .c4 len hph (Host.Outcome.next.inj h).symm
  case directU len rest ack =>
    cases rest with
    | cons b bs => exact .u1 len b bs ack hph (Host.Outcome.next.inj h).symm
    | nil =>
      cases ack
      · exact .u2 len _ s hph (AskedOnly.refl s) (Host.Outcome.next.inj h).symm
      · exact .u2 len _ (s.record .sendAck) hph (AskedOnly.record s (by simp)) (Host.Outcome.next.inj h).symm

theorem qempty_move {s t : State} (h : exec .qempty s = .next t) : Move s t .qempty := by
  obtain ⟨h, hp⟩ := onPort_single (i := .qempty) h (by intro p hp; simpa using phase_instr_cases hp)
  exact .answer _ s _ rfl (.inl hp) (AskedOnly.refl s) (Host.Outcome.next.inj h).symm

theorem qfull_move {s t : State} (h : exec .qfull s = .next t) : Move s t .qfull := by
  obtain ⟨h, hp⟩ := onPort_single (i := .qfull) h (by intro p hp; simpa using phase_instr_cases hp)
  exact .answer _ s _ rfl (.inl hp) (AskedOnly.refl s) (Host.Outcome.next.inj h).symm

/-- A command answered ILLEGAL while no operation is in progress. -/
theorem illegal_move {i : Instr} {s t : State} (hi : isMain i = true) (hp : s.phase = .idle)
    (h : respondIllegal s = .next t) : Move s t i := .illegal i hi hp (Host.Outcome.next.inj h).symm

theorem rdcsr_move {k : Byte} {s t : State} (h : exec (.rdcsr k) s = .next t) : Move s t (.rdcsr k) := by
  obtain ⟨h, hp⟩ := onPort_single (i := .rdcsr k) h (by intro p hp; simpa using phase_instr_cases hp)
  split at h
  · exact .answer _ s _ rfl (.inl hp) (AskedOnly.refl s) (Host.Outcome.next.inj h).symm
  · exact illegal_move rfl hp h

/-- The key's call, made or not, is no call that reads a frame. -/
theorem provisionKey_asked (ok : Bool) (s : State) : AskedOnly s (provisionKey ok s) := by
  unfold provisionKey
  split_ifs
  · exact AskedOnly.record s (by simp)
  · exact (AskedOnly.dropBool s).trans (AskedOnly.record _ (by simp))
  · exact AskedOnly.dropBool s
  · exact AskedOnly.refl s

theorem registerHandler_asked (s : State) : AskedOnly s (registerHandler s) := by
  unfold registerHandler
  split_ifs
  · exact AskedOnly.record s (by simp)
  · exact AskedOnly.refl s

/-- Registering the handler reads and writes no register. -/
theorem registerHandler_ready (s : State) :
    registerHandler { s with mode := .rx, txpend := false, ready := true } =
      { registerHandler s with mode := .rx, txpend := false, ready := true } := by
  unfold registerHandler
  split_ifs <;> rfl

theorem init_move {s t : State} (h : exec .init s = .next t) : Move s t .init := by
  obtain ⟨h, hp⟩ := onPort_single (i := .init) h (by intro p hp; simpa using phase_instr_cases hp)
  have hask := AskedOnly.askBool s (c := .initRadio s.cfg.frequency s.addr s.cfg.networkId) (by simp)
  simp only [respond_eq, Host.Outcome.next.injEq, askBool_fst] at h
  cases hb : s.nextBool <;> simp only [hb, afterInit, if_true, Bool.false_eq_true, if_false] at h
  · have hu := hask.trans (provisionKey_asked false _)
    have hr : s.rsp = _ := (congrArg State.rsp hu.same).symm
    refine .initFailed _ hp hb hu ?_
    rw [← h, hr]
    rfl
  · have hu := (hask.trans (provisionKey_asked true _)).trans (registerHandler_asked _)
    have hr : s.rsp = _ := (congrArg State.rsp hu.same).symm
    refine .initOk _ hp hb hu ?_
    rw [← h, registerHandler_ready, hr]
    rfl

theorem send_move {d l : Byte} {n : Bool} {s t : State} (h : exec (.send d l n) s = .next t) :
    Move s t (.send d l n) := by
  obtain ⟨h, hp⟩ := onPort_next (i := .send d l n) h
  cases hph : s.phase <;> simp only [hph, Phase.instr, Option.some.injEq, reduceCtorEq, or_false,
    false_or, or_self] at h hp
  case idle =>
    unfold sendS0 at h
    split at h
    · exact illegal_move rfl hph h
    · rename_i hr
      simp only [sendRejected, Bool.or_eq_true, Bool.not_eq_true', decide_eq_true_eq, not_or,
        Bool.not_eq_false] at hr
      exact .s0 d l n hph hr.1.1 hr.1.2 (by omega) (Host.Outcome.next.inj h).symm
  case sendS1 op =>
    rw [← hp]
    unfold sendS1 at h
    split at h
    · cases h
    · exact .s1 op hph (by omega) (Host.Outcome.next.inj h).symm
  case sendS2 op data a =>
    rw [← hp]
    unfold sendS2 at h
    by_cases hm : s.mode = .rx
    · simp only [hm] at h
      split at h <;> rename_i hn
      · simp only [hn] at h
        exact .s2End op data a hph hn hm (Host.Outcome.next.inj h).symm
      · simp only [Bool.not_eq_true] at hn
        simp only [hn] at h
        exact .s2 op data a hph hn hm (Host.Outcome.next.inj h).symm
    · refine .hold op data a (.inl ⟨hph, hm⟩) ?_
      have h' : held s = .next t := by cases hmode : s.mode <;> simp_all
      unfold held at h'
      split at h'
      · exact .inr ⟨‹_›, h'⟩
      · exact .inl ⟨by simp_all, (Host.Outcome.next.inj h').symm⟩
  case sendS3 op data a =>
    rw [← hp]
    unfold sendS3 at h
    split at h
    · refine .hold op data a (.inr ⟨hph, ‹_›⟩) ?_
      unfold held at h
      split at h
      · exact .inr ⟨‹_›, h⟩
      · exact .inl ⟨by simp_all, (Host.Outcome.next.inj h).symm⟩
    · exact .s3 op data a hph (by simp_all) (Host.Outcome.next.inj h).symm
  case sendS4 op data a =>
    rw [← hp]
    have hu := AskedOnly.askBool s (c := .ackResult) (by simp)
    unfold sendS4 at h
    by_cases hb : s.nextBool = true
    · simp only [askBool_fst, hb, if_true] at h
      exact .s4End op data a _ _ hph hu (Host.Outcome.next.inj h).symm
    · by_cases ha : a < s.cfg.retries
      · simp only [askBool_fst, hb, if_false, ha, if_true, Bool.false_eq_true] at h
        exact .s4Again op data a _ hph ha hu (Host.Outcome.next.inj h).symm
      · simp only [askBool_fst, hb, if_false, ha, Bool.false_eq_true] at h
        exact .s4End op data a _ _ hph hu (Host.Outcome.next.inj h).symm

/-- Entry into a low-power mode, or its refusal. -/
theorem enterLowPower_move {i : Instr} {c : ChipCall} {m : Mode} {s t : State} (hi : isMain i = true)
    (him : (i = .sleep ∧ m = .sleep) ∨ (i = .standby ∧ m = .standby) ∨ (i = .powerdown ∧ m = .powerDown))
    (hc : ∀ keep, c ≠ .readFrame keep) (hp : s.phase = .idle) (h : enterLowPower c m s = .next t) :
    Move s t i := by
  unfold enterLowPower at h
  split at h
  · rename_i hg
    rw [Bool.and_eq_true] at hg
    exact .lowPower i (s.record c) m him hp hg.1 hg.2 (AskedOnly.record s hc) (Host.Outcome.next.inj h).symm
  · exact illegal_move hi hp h

theorem sleep_move {s t : State} (h : exec .sleep s = .next t) : Move s t .sleep := by
  obtain ⟨h, hp⟩ := onPort_single (i := .sleep) h (by intro p hp; simpa using phase_instr_cases hp)
  exact enterLowPower_move rfl (by simp) (by simp) hp h

theorem standby_move {s t : State} (h : exec .standby s = .next t) : Move s t .standby := by
  obtain ⟨h, hp⟩ := onPort_single (i := .standby) h (by intro p hp; simpa using phase_instr_cases hp)
  exact enterLowPower_move rfl (by simp) (by simp) hp h

theorem powerdown_move {s t : State} (h : exec .powerdown s = .next t) : Move s t .powerdown := by
  obtain ⟨h, hp⟩ := onPort_single (i := .powerdown) h (by intro p hp; simpa using phase_instr_cases hp)
  exact enterLowPower_move rfl (by simp) (by simp) hp h

theorem powerup_move {s t : State} (h : exec .powerup s = .next t) : Move s t .powerup := by
  obtain ⟨h, hp⟩ := onPort_single (i := .powerup) h (by intro p hp; simpa using phase_instr_cases hp)
  split at h
  · rename_i hr
    refine .powerUp (s.record .powerUp) hp hr (AskedOnly.record s (by simp)) ?_
    rw [← Host.Outcome.next.inj h]
    cases s.mode.active <;> rfl
  · exact illegal_move rfl hp h

theorem setaddr_move {a : Byte} {s t : State} (h : exec (.setaddr a) s = .next t) :
    Move s t (.setaddr a) := by
  obtain ⟨h, hp⟩ := onPort_single (i := .setaddr a) h (by intro p hp; simpa using phase_instr_cases hp)
  exact .setaddr a (s.record (.setAddress a)) hp (AskedOnly.record s (by simp)) (Host.Outcome.next.inj h).symm

theorem getaddr_move {s t : State} (h : exec .getaddr s = .next t) : Move s t .getaddr := by
  obtain ⟨h, hp⟩ := onPort_single (i := .getaddr) h (by intro p hp; simpa using phase_instr_cases hp)
  exact .answer _ s _ rfl (.inl hp) (AskedOnly.refl s) (Host.Outcome.next.inj h).symm

/-- A setting forwarded or refused. -/
theorem forwardSetting_move {i : Instr} {c : ChipCall} {sup : Bool} {bound : Nat} {v : Byte} {s t : State}
    (hi : isMain i = true) (hc : ∀ keep, c ≠ .readFrame keep) (hp : s.phase = .idle)
    (h : forwardSetting sup bound v c s = .next t) : Move s t i := by
  unfold forwardSetting at h
  split at h
  · exact .answer i s _ hi (.inl hp) (AskedOnly.refl s) (Host.Outcome.next.inj h).symm
  · split at h
    · exact .answer i s _ hi (.inl hp) (AskedOnly.refl s) (Host.Outcome.next.inj h).symm
    · exact .answer i _ _ hi (.inl hp) (AskedOnly.askBool s hc) (Host.Outcome.next.inj h).symm

/-- A query forwarded or answered by the sentinel. -/
theorem forwardQuery_move {i : Instr} {c : ChipCall} {sup : Bool} {v : Half} {s t : State}
    (hi : isMain i = true) (hc : ∀ keep, c ≠ .readFrame keep) (hp : s.phase = .idle)
    (h : forwardQuery sup v c s = .next t) : Move s t i := by
  unfold forwardQuery at h
  split at h
  · exact .answer i _ _ hi (.inl hp) (AskedOnly.askHalf s hc) (Host.Outcome.next.inj h).symm
  · exact .answer i s _ hi (.inl hp) (AskedOnly.refl s) (Host.Outcome.next.inj h).symm

theorem settxlvl_move {v : Byte} {s t : State} (h : exec (.settxlvl v) s = .next t) :
    Move s t (.settxlvl v) := by
  obtain ⟨h, hp⟩ := onPort_single (i := .settxlvl v) h (by intro p hp; simpa using phase_instr_cases hp)
  exact forwardSetting_move rfl (by simp) hp h

theorem settxpct_move {v : Byte} {s t : State} (h : exec (.settxpct v) s = .next t) :
    Move s t (.settxpct v) := by
  obtain ⟨h, hp⟩ := onPort_single (i := .settxpct v) h (by intro p hp; simpa using phase_instr_cases hp)
  exact forwardSetting_move rfl (by simp) hp h

theorem gettxlvl_move {s t : State} (h : exec .gettxlvl s = .next t) : Move s t .gettxlvl := by
  obtain ⟨h, hp⟩ := onPort_single (i := .gettxlvl) h (by intro p hp; simpa using phase_instr_cases hp)
  exact forwardQuery_move rfl (by simp) hp h

theorem gettxpct_move {s t : State} (h : exec .gettxpct s = .next t) : Move s t .gettxpct := by
  obtain ⟨h, hp⟩ := onPort_single (i := .gettxpct) h (by intro p hp; simpa using phase_instr_cases hp)
  exact forwardQuery_move rfl (by simp) hp h

theorem getsrssi_move {s t : State} (h : exec .getsrssi s = .next t) : Move s t .getsrssi := by
  obtain ⟨h, hp⟩ := onPort_single (i := .getsrssi) h (by intro p hp; simpa using phase_instr_cases hp)
  exact forwardQuery_move rfl (by simp) hp h

theorem getrrssi_move {s t : State} (h : exec .getrrssi s = .next t) : Move s t .getrrssi := by
  obtain ⟨h, hp⟩ := onPort_single (i := .getrrssi) h (by intro p hp; simpa using phase_instr_cases hp)
  exact forwardQuery_move rfl (by simp) hp h

theorem getssnr_move {s t : State} (h : exec .getssnr s = .next t) : Move s t .getssnr := by
  obtain ⟨h, hp⟩ := onPort_single (i := .getssnr) h (by intro p hp; simpa using phase_instr_cases hp)
  exact forwardQuery_move rfl (by simp) hp h

theorem getrsnr_move {s t : State} (h : exec .getrsnr s = .next t) : Move s t .getrsnr := by
  obtain ⟨h, hp⟩ := onPort_single (i := .getrsnr) h (by intro p hp; simpa using phase_instr_cases hp)
  exact forwardQuery_move rfl (by simp) hp h

theorem sanity_move {s t : State} (h : exec .sanity s = .next t) : Move s t .sanity := by
  obtain ⟨h, hp⟩ := onPort_single (i := .sanity) h (by intro p hp; simpa using phase_instr_cases hp)
  exact .answer _ _ _ rfl (.inl hp) (AskedOnly.askBool s (c := .sanityCheck) (by simp))
    (Host.Outcome.next.inj h).symm

theorem irq_move {f : Bool} {s t : State} (h : exec (.irq f) s = .next t) : Move s t (.irq f) := by
  change execIrq f s = _ at h
  unfold execIrq at h
  split at h
  · exact .irq f ‹_› h
  · cases h

/-- Every next state of `exec` is one of the moves. -/
theorem exec_move {i : Instr} {s t : State} (h : exec i s = .next t) : Move s t i := by
  cases i with
  | available => exact available_move h
  | receive => exact receive_move h
  | qempty => exact qempty_move h
  | qfull => exact qfull_move h
  | rdcsr k => exact rdcsr_move h
  | init => exact init_move h
  | send d l n => exact send_move h
  | sleep => exact sleep_move h
  | standby => exact standby_move h
  | powerdown => exact powerdown_move h
  | powerup => exact powerup_move h
  | setaddr a => exact setaddr_move h
  | getaddr => exact getaddr_move h
  | settxlvl v => exact settxlvl_move h
  | gettxlvl => exact gettxlvl_move h
  | settxpct v => exact settxpct_move h
  | gettxpct => exact gettxpct_move h
  | getsrssi => exact getsrssi_move h
  | getrrssi => exact getrrssi_move h
  | getssnr => exact getssnr_move h
  | getrsnr => exact getrsnr_move h
  | sanity => exact sanity_move h
  | irq f => exact irq_move h

/-- Where a step comes from: reset; nothing, the hardware being idle; a reserved command word; or `exec` of an
instruction, on the state with its input taken. -/
inductive StepFrom (s t : State) : Prop
  | reset (rest : List Input) : s.inputs = .rst :: rest → t = hardwareReset { s with inputs := rest } →
      StepFrom s t
  | waits (rest : List Input) : s.phase = .idle → (s.inputs = [] ∧ rest = [] ∨ s.inputs = .tick :: rest) →
      t = { s with inputs := rest } → StepFrom s t
  | reserved (w : CmdWord) (rest : List Input) (e : DecodeError) : s.inputs = .word (.cw w) :: rest →
      s.phase = .idle → decode (.cw w) = .error e →
      t = { s with inputs := rest, phase := .idle, rsp := s.rsp ++ [⟨.illegal, 0⟩] } → StepFrom s t
  /-- The operation in progress goes on. -/
  | goesOn (i : Instr) (rest : List Input) : s.phase.instr = some i →
      ¬ s.resetNext → ¬ s.eventNext → exec i { s with inputs := rest } = .next t → StepFrom s t
  /-- A command is accepted. -/
  | accepts (i : Instr) (w : CmdWord) (rest : List Input) : s.phase = .idle →
      s.inputs = .word (.cw w) :: rest → decode (.cw w) = .ok i →
      exec i { s with inputs := rest } = .next t → StepFrom s t
  /-- An interrupt is taken. -/
  | interrupt (i : Instr) (e : Byte) (rest : List Input) : s.inputs = .word (.ev e) :: rest →
      decode (.ev e) = .ok i → exec i { s with inputs := rest } = .next t → StepFrom s t

/-- MAIN's turn continues an operation or waits. -/
theorem mainStep_from {s t : State} {rest : List Input} (hr : ¬ s.resetNext) (he : ¬ s.eventNext)
    (hi : s.phase = .idle → s.inputs = [] ∧ rest = [] ∨ s.inputs = .tick :: rest)
    (h : mainStep { s with inputs := rest } = .next t) : StepFrom s t := by
  unfold mainStep at h
  split at h
  · exact .goesOn _ rest ‹_› hr he h
  · rename_i hp
    have hp := phase_instr_none.1 hp
    exact .waits rest hp (hi hp) (Host.Outcome.next.inj h).symm

theorem step_from {s t : State} (h : step s = .next t) : StepFrom s t := by
  unfold step nextStep at h
  split at h
  · rename_i hin
    refine mainStep_from (rest := s.inputs) (by simp [State.resetNext, hin])
      (by simp [State.eventNext, hin]) (fun _ => .inl ⟨hin, hin⟩) h
  · rename_i rest hin
    exact mainStep_from (by simp [State.resetNext, hin]) (by simp [State.eventNext, hin])
      (fun _ => .inr hin) h
  · exact .reset _ ‹_› (Host.Outcome.next.inj h).symm
  · rename_i e rest hin
    unfold takeEvent at h
    split at h
    · exact .interrupt _ e rest hin ‹_› h
    · cases h
  · rename_i w rest hin
    split at h
    · rename_i hp
      unfold acceptCommand at h
      split at h
      · exact .accepts _ w rest hp hin ‹_› h
      · exact .reserved w rest _ hin hp ‹_› (Host.Outcome.next.inj h).symm
    · rename_i hp
      exact mainStep_from (rest := s.inputs) (by simp [State.resetNext, hin])
        (by simp [State.eventNext, hin]) (fun hidle => absurd hidle hp) h

end Sys2Proof.Machine
end

