-- ==== Sys2Proof/Laws/PerInstr.lean ====
section
/-! SUPPORT. The family OpcodeByte: the encoded word of every instruction matches its own row of the opcode
table (30_encoding R95, R93). -/

namespace Sys2Proof.Laws.OpcodeByte

/-- The row's match value (30_encoding R95; 0x80 for the event, R93). -/
def rowMatch : Instr → Byte
  | .available => 0x01
  | .receive => 0x02
  | .qempty => 0x03
  | .qfull => 0x04
  | .rdcsr _ => 0x05
  | .init => 0x10
  | .send _ _ _ => 0x11
  | .sleep => 0x12
  | .standby => 0x13
  | .powerdown => 0x14
  | .powerup => 0x15
  | .setaddr _ => 0x20
  | .getaddr => 0x21
  | .settxlvl _ => 0x22
  | .gettxlvl => 0x23
  | .settxpct _ => 0x24
  | .gettxpct => 0x25
  | .getsrssi => 0x26
  | .getrrssi => 0x27
  | .getssnr => 0x28
  | .getrsnr => 0x29
  | .sanity => 0x2A
  | .irq _ => 0x80

/-- The word of `i` carries the row's opcode byte; an event byte agrees with the row on bits 7..1. -/
def Statement (i : Instr) : Prop :=
  match encode i with
  | .cw w => opField w = rowMatch i
  | .ev e => e &&& 0xFE = rowMatch i

theorem available : Statement .available := opField_commandWord _ _ _ _
theorem receive : Statement .receive := opField_commandWord _ _ _ _
theorem qempty : Statement .qempty := opField_commandWord _ _ _ _
theorem qfull : Statement .qfull := opField_commandWord _ _ _ _
theorem rdcsr (k : Byte) : Statement (.rdcsr k) := opField_commandWord _ _ _ _
theorem init : Statement .init := opField_commandWord _ _ _ _
theorem send (dest len : Byte) (noack : Bool) : Statement (.send dest len noack) := opField_commandWord _ _ _ _
theorem sleep : Statement .sleep := opField_commandWord _ _ _ _
theorem standby : Statement .standby := opField_commandWord _ _ _ _
theorem powerdown : Statement .powerdown := opField_commandWord _ _ _ _
theorem powerup : Statement .powerup := opField_commandWord _ _ _ _
theorem setaddr (addr : Byte) : Statement (.setaddr addr) := opField_commandWord _ _ _ _
theorem getaddr : Statement .getaddr := opField_commandWord _ _ _ _
theorem settxlvl (level : Byte) : Statement (.settxlvl level) := opField_commandWord _ _ _ _
theorem gettxlvl : Statement .gettxlvl := opField_commandWord _ _ _ _
theorem settxpct (percent : Byte) : Statement (.settxpct percent) := opField_commandWord _ _ _ _
theorem gettxpct : Statement .gettxpct := opField_commandWord _ _ _ _
theorem getsrssi : Statement .getsrssi := opField_commandWord _ _ _ _
theorem getrrssi : Statement .getrrssi := opField_commandWord _ _ _ _
theorem getssnr : Statement .getssnr := opField_commandWord _ _ _ _
theorem getrsnr : Statement .getrsnr := opField_commandWord _ _ _ _
theorem sanity : Statement .sanity := opField_commandWord _ _ _ _
theorem irq (frameReady : Bool) : Statement (.irq frameReady) := by cases frameReady <;> exact rfl

end Sys2Proof.Laws.OpcodeByte
end

