-- ==== Sys2Proof/Laws/Ring.lean ====
section
/-! SUPPORT. The ring of slots: what a push does to each slot, and what the handler and a poll leave alone
(10_state R26, 40_queue_ops R120). -/

namespace Sys2Proof.Machine

/-- The bounds of a legal configuration. -/
theorem config_bounds {c : Config} (h : c.wellFormed = true) :
    0 < c.n ∧ c.n < 256 ∧ 0 < c.maxFrameLen ∧ c.maxFrameLen < 256 := by
  simp only [Config.wellFormed, Bool.and_eq_true, decide_eq_true_eq] at h
  omega

theorem toNat_byte {n : Nat} (h : n < 256) : (BitVec.ofNat 8 n).toNat = n := by
  rw [BitVec.toNat_ofNat, Nat.mod_eq_of_lt h]

theorem slotIndex_lt {s : State} (hn : 0 < s.cfg.n) (k : Nat) : s.slotIndex k < s.cfg.n := Nat.mod_lt _ hn

/-- Two of the N slots are the same only if their places in the queue are. -/
theorem slotIndex_inj {s : State} {j k : Nat} (hj : j < s.cfg.n) (hk : k < s.cfg.n)
    (h : s.slotIndex j = s.slotIndex k) : j = k := by
  have h' := Nat.ModEq.add_left_cancel' (s.head.toNat + s.cfg.n - s.popPending)
    (show (s.head.toNat + s.cfg.n - s.popPending + j) ≡ (s.head.toNat + s.cfg.n - s.popPending + k)
      [MOD s.cfg.n] from h)
  unfold Nat.ModEq at h'
  rwa [Nat.mod_eq_of_lt hj, Nat.mod_eq_of_lt hk] at h'

/-- With no pop pending HEAD is the oldest frame's slot. -/
theorem slotIndex_zero {s : State} (hp : s.popPending = 0) (hh : s.head.toNat < s.cfg.n) :
    s.slotIndex 0 = s.head.toNat := by
  unfold State.slotIndex
  rw [hp, Nat.sub_zero, Nat.add_zero, Nat.add_mod_right, Nat.mod_eq_of_lt hh]

theorem framePayload_le (s : State) : s.framePayload.length ≤ s.cfg.maxFrameLen := by
  simp [State.framePayload]

/-- A push leaves every byte of the other slots as it was. -/
theorem afterPush_get_other {s : State} (hw : s.mem.wf = true) {bytes : List Byte}
    (hb : bytes.length ≤ s.cfg.maxFrameLen) {i j : Nat} (hi : i ≠ s.tail.toNat) (hj : j < s.cfg.slotSize) :
    (afterPush bytes s).mem.get (i * s.cfg.slotSize + j) = s.mem.get (i * s.cfg.slotSize + j) := by
  have hS : s.cfg.slotSize = s.cfg.maxFrameLen + 1 := rfl
  have hd := fun l (hl : l < s.cfg.slotSize) => slot_disjoint hj hl hi
  unfold afterPush
  simp only
  rw [get_written hw, if_neg, if_neg]
  · unfold slotDataAddr
    rintro ⟨h1, h2⟩
    have := hd (i * s.cfg.slotSize + j - s.tail.toNat * s.cfg.slotSize) (by omega)
    omega
  · simpa [slotLenAddr] using hd 0 (by omega)

theorem afterPush_slotLen_other {s : State} (hw : s.mem.wf = true) {bytes : List Byte}
    (hb : bytes.length ≤ s.cfg.maxFrameLen) {i : Nat} (hi : i ≠ s.tail.toNat) :
    (afterPush bytes s).slotLen i = s.slotLen i :=
  afterPush_get_other hw hb (j := 0) hi (by simp [Config.slotSize])

theorem afterPush_slotByte_other {s : State} (hw : s.mem.wf = true) {bytes : List Byte}
    (hb : bytes.length ≤ s.cfg.maxFrameLen) {i j : Nat} (hi : i ≠ s.tail.toNat)
    (hj : j < s.cfg.maxFrameLen) : (afterPush bytes s).slotByte i j = s.slotByte i j := by
  have h := afterPush_get_other hw hb (j := 1 + j) hi (by simp [Config.slotSize]; omega)
  rw [← Nat.add_assoc] at h
  exact h

theorem afterPush_slotFrame_other {s : State} (hw : s.mem.wf = true) {bytes : List Byte}
    (hb : bytes.length ≤ s.cfg.maxFrameLen) {i : Nat} (hi : i ≠ s.tail.toNat)
    (hl : (s.slotLen i).toNat ≤ s.cfg.maxFrameLen) :
    (afterPush bytes s).slotFrame i = s.slotFrame i := by
  unfold State.slotFrame
  rw [afterPush_slotLen_other hw hb hi]
  refine List.map_congr_left fun j hj => ?_
  exact afterPush_slotByte_other hw hb hi (by have := List.mem_range.1 hj; omega)

theorem afterPush_slotLen_tail {s : State} (hw : s.mem.wf = true) (bytes : List Byte) :
    (afterPush bytes s).slotLen s.tail.toNat = lenByte bytes := by
  change (afterPush bytes s).mem.get _ = _
  unfold afterPush
  simp only
  rw [get_written hw, if_pos rfl]

theorem afterPush_slotByte_tail {s : State} (hw : s.mem.wf = true) {bytes : List Byte} {j : Nat}
    (hj : j < bytes.length) : (afterPush bytes s).slotByte s.tail.toNat j = bytes.getD j 0 := by
  change (afterPush bytes s).mem.get _ = _
  unfold afterPush
  simp only
  rw [get_written hw, if_neg (by simp [slotDataAddr, slotLenAddr]; omega),
    if_pos (by simp [slotDataAddr]; omega)]
  simp [slotDataAddr]

/-- A push writes LEN and the payload bytes of the slot at TAIL and no other byte (10_state R22). -/
theorem afterPush_get_outside {s : State} (hw : s.mem.wf = true) {bytes : List Byte} {a : Nat}
    (ha : a < slotLenAddr s.cfg s.tail.toNat ∨ slotLenAddr s.cfg s.tail.toNat + 1 + bytes.length ≤ a) :
    (afterPush bytes s).mem.get a = s.mem.get a := by
  unfold afterPush
  simp only
  rw [get_written hw, if_neg (by omega), if_neg (by simp only [slotDataAddr, slotLenAddr] at *; omega)]

/-- The slot at TAIL then holds the pushed frame. -/
theorem afterPush_slotFrame_tail {s : State} (hw : s.mem.wf = true) {bytes : List Byte}
    (hb : bytes.length < 256) : (afterPush bytes s).slotFrame s.tail.toNat = bytes := by
  unfold State.slotFrame
  rw [afterPush_slotLen_tail hw, lenByte, toNat_byte hb]
  refine List.ext_getElem (by simp) fun i h1 h2 => ?_
  simp [afterPush_slotByte_tail hw h2, h2]

/-- What one handler invocation leaves alone (41_irq_handler R161, 60_exceptions R243). -/
theorem takeInterrupt_frame {f : Bool} {s t : State} (h : takeInterrupt f s = .next t) :
    t.cfg = s.cfg ∧ t.head = s.head ∧ t.addr = s.addr ∧ t.ready = s.ready ∧ t.phase = s.phase ∧
      t.inputs = s.inputs ∧ t.txd = s.txd ∧ t.rsp = s.rsp ∧ t.rxd = s.rxd := by
  rcases takeInterrupt_next h with ⟨_, _, rfl⟩ | ⟨_, _, _, _, rfl⟩ | ⟨_, _, _, rfl⟩ | ⟨_, rfl⟩ <;>
    simp [afterPush, afterDrain]

/-- What a poll leaves alone. -/
theorem pollService_frame {s t : State} (h : pollService s = .next t) :
    t.cfg = s.cfg ∧ t.head = s.head ∧ t.addr = s.addr ∧ t.ready = s.ready ∧ t.phase = s.phase ∧
      t.inputs = s.inputs ∧ t.txd = s.txd ∧ t.rsp = s.rsp ∧ t.rxd = s.rxd := by
  rcases pollService_next h with ⟨_, rfl⟩ | ⟨_, _, rfl⟩ | ⟨_, _, _, h'⟩ | ⟨_, _, _, rfl⟩
  · simp
  · simp [afterLine]
  · simpa [afterLine] using takeInterrupt_frame h'
  · simp [afterLine]

end Sys2Proof.Machine
end

