-- ==== Sys2Proof/Tests/Slice0.lean ====
section
/-! SUPPORT. Tests with results from the spec's vectors (95_test_vectors; the row's id stands in each
name or comment), the smoke test of the well-formedness checks, and for each statement with hypotheses a
witness that meets them. -/

namespace Sys2Proof.Tests

open Sys2Proof.Machine

/-! ## Well-formedness refuses ill-formed terms -/

/-- CFG-A with numbers for the parameters it leaves open. -/
def cfgT : Config :=
  { Config.cfgA with
    invalidRssi := 0x7FF1, invalidSnr := 0x7FF2, invalidLevel := 0x7FF3, invalidPercent := 0x7FF4
    frequency := 868, networkId := 100 }

theorem test_wf_config : cfgT.wellFormed = true ∧ Config.cfgA.wellFormed = true := by decide
theorem test_wf_refuses_n_0 : ({ cfgT with n := 0 } : Config).wellFormed = false := by decide
theorem test_wf_refuses_n_256 : ({ cfgT with n := 256 } : Config).wellFormed = false := by decide
theorem test_wf_refuses_len_0 : ({ cfgT with maxFrameLen := 0 } : Config).wellFormed = false := by decide
theorem test_wf_refuses_len_256 : ({ cfgT with maxFrameLen := 256 } : Config).wellFormed = false := by decide
theorem test_wf_refuses_rdcsr_5 : (Instr.rdcsr 5).wellFormed cfgT = false := by decide
theorem test_wf_refuses_send_len_5 : (Instr.send 7 5 false).wellFormed cfgT = false := by decide
theorem test_wf_refuses_level_24 : (Instr.settxlvl 24).wellFormed cfgT = false := by decide
theorem test_wf_refuses_percent_101 : (Instr.settxpct 101).wellFormed cfgT = false := by decide
theorem test_wf_accepts_bounds :
    (Instr.rdcsr 4).wellFormed cfgT = true ∧ (Instr.send 7 4 false).wellFormed cfgT = true ∧
      (Instr.settxlvl 23).wellFormed cfgT = true ∧ (Instr.settxpct 100).wellFormed cfgT = true := by decide

/-! ## Decoding: words written out from 30_encoding R90, R93, R95 -/

theorem test_decode_queue :
    decodeCommand 0b00000000000000000000000000000001#32 = .ok .available ∧
      decodeCommand 0b00000000000000000000000000000010#32 = .ok .receive ∧
      decodeCommand 0b00000000000000000000000000000011#32 = .ok .qempty ∧
      decodeCommand 0b00000000000000000000000000000100#32 = .ok .qfull ∧
      decodeCommand 0b00000000000000000000001000000101#32 = .ok (.rdcsr 2) := by decide

theorem test_decode_mode :
    decodeCommand 0b00000000000000000000000000010000#32 = .ok .init ∧
      decodeCommand 0b00000001000000100000010100010001#32 = .ok (.send 5 2 true) ∧
      decodeCommand 0b11111110000000100000010100010001#32 = .ok (.send 5 2 false) ∧
      decodeCommand 0x00000012 = .ok .sleep ∧ decodeCommand 0x00000013 = .ok .standby ∧
      decodeCommand 0x00000014 = .ok .powerdown ∧ decodeCommand 0x00000015 = .ok .powerup := by decide

theorem test_decode_facade :
    decodeCommand 0b00000000000000000010101000100000#32 = .ok (.setaddr 0x2A) ∧
      decodeCommand 0x00000021 = .ok .getaddr ∧ decodeCommand 0x00001822 = .ok (.settxlvl 24) ∧
      decodeCommand 0x00000023 = .ok .gettxlvl ∧ decodeCommand 0x00003224 = .ok (.settxpct 50) ∧
      decodeCommand 0x00000025 = .ok .gettxpct ∧ decodeCommand 0x00000026 = .ok .getsrssi ∧
      decodeCommand 0x00000027 = .ok .getrrssi ∧ decodeCommand 0x00000028 = .ok .getssnr ∧
      decodeCommand 0x00000029 = .ok .getrsnr ∧ decodeCommand 0x0000002A = .ok .sanity := by decide

theorem test_decode_event :
    decodeEvent 0b10000001#8 = .ok (.irq true) ∧ decodeEvent 0b10000000#8 = .ok (.irq false) ∧
      decodeEvent 0x82 = .error (.notAnEvent 0x82) := by decide

/-- E1: reserved opcodes. -/
theorem test_decode_reserved :
    [0x00, 0x06, 0x0F, 0x16, 0x1F, 0x2B, 0x80, 0xFF].all
      (fun w : CmdWord => (decodeCommand w).toOption == none) = true := by decide

/-- The host's numbering: a command row, an event row, a word with operands. -/
theorem test_table_words :
    decodeTableWord 32 0x11 = some (.send 0 0 false) ∧ decodeTableWord 8 0x2A = some .sanity ∧
      decodeTableWord 8 0x80 = some (.irq false) ∧ decodeTableWord 8 0x81 = some (.irq true) ∧
      decodeTableWord 32 0x01020511 = some (.send 5 2 true) := by decide

/-! ## One step of each instruction -/

/-- A field of the next state. -/
def field {α : Type} (f : State → α) (r : Result) : Option α :=
  match r with
  | .next t => some (f t)
  | _ => none

/-- RESET of 95_test_vectors. -/
def cold : State := State.resetWith cfgT
/-- READY-RX of 95_test_vectors. -/
def rxReady : State := { cold with ready := true }
/-- One frame (1; 0x5A) queued in slot 0. -/
def one : State := { rxReady with occ := 1, tail := 1, mem := [(0, 1), (1, 0x5A)] }
/-- Four frames of one byte queued, HEAD = TAIL = 0. -/
def full : State :=
  { rxReady with occ := 4, mem := [(0, 1), (1, 0x11), (5, 1), (6, 0x21), (10, 1), (11, 0x31), (15, 1), (16, 0x41)] }
/-- MODE = TX with a send pending. -/
def sending : State := { rxReady with mode := .tx, txpend := true }
/-- CFG-D: direct mode. -/
def direct : State := { rxReady with cfg := { cfgT with buffered := false } }
/-- CFG-E: a polled line. -/
def polled : State := { rxReady with cfg := { cfgT with irqPolled := true } }
/-- CFG-F: a variant without the optional features. -/
def plain : State :=
  { rxReady with cfg := { cfgT with
    retries := 2, hasTxLevel := false, hasTxPercent := false, hasRssiTx := false, hasRssiRx := false
    hasSnrTx := false, hasSnrRx := false } }

/-- `s` with command word `w` next. -/
def cmd (w : CmdWord) (s : State) : State := { s with inputs := [.word (.cw w)] }
/-- `s` with event byte `e` next. -/
def event (e : Byte) (s : State) : State := { s with inputs := [.word (.ev e)] }

/-- Q1a; P2 step 9. -/
theorem test_available :
    field State.rsp (step (cmd 0x00000001 cold)) = some [⟨.done, 0⟩] ∧
      field State.rsp (step (cmd 0x00000001 one)) = some [⟨.done, 1⟩] := by decide
/-- Q12. -/
theorem test_available_direct :
    field State.rsp (step (cmd 0x00000001 { direct with bools := [true] })) = some [⟨.done, 1⟩] := by decide
/-- Q1b. -/
theorem test_receive_empty : field State.rsp (step (cmd 0x00000002 cold)) = some [⟨.none, 0⟩] := by decide
/-- R127 c3: HEAD wraps from 3 to 0 (Q8). -/
theorem test_receive_head_wraps :
    field (fun t => (t.head, t.occ)) (step { full with head := 3, tail := 3, phase := .recvC2 1 1 }) =
      some (0, 4) := by decide
/-- Q1c, Q9. -/
theorem test_qempty :
    field State.rsp (step (cmd 0x00000003 cold)) = some [⟨.done, 1⟩] ∧
      field State.rsp (step (cmd 0x00000003 one)) = some [⟨.done, 0⟩] := by decide
/-- Q1d, P1 step 6. -/
theorem test_qfull :
    field State.rsp (step (cmd 0x00000004 cold)) = some [⟨.done, 0⟩] ∧
      field State.rsp (step (cmd 0x00000004 full)) = some [⟨.done, 1⟩] := by decide
/-- Q10, P3 step 5. -/
theorem test_rdcsr_status :
    field State.rsp (step (cmd 0x00000005 full)) = some [⟨.done, 10⟩] ∧
      field State.rsp (step (cmd 0x00000005 { sending with occ := 1 })) = some [⟨.done, 12⟩] := by decide
/-- Q1h. -/
theorem test_rdcsr_unpopulated :
    field State.rsp (step (cmd 0x0000FF05 cold)) = some [⟨.illegal, 0⟩] := by decide
/-- M1: the calls, MODE, READY and the answer. -/
theorem test_init_ok :
    field (fun t => (t.ready, t.calls, t.rsp)) (step (cmd 0x00000010 { cold with bools := [true] })) =
      some (true, [.initRadio 868 0 100, .registerReceiveCallback], [⟨.done, 1⟩]) := by decide
/-- M2, in MODE = POWER_DOWN (P3 step 12). -/
theorem test_init_fails :
    field (fun t => (t.ready, t.mode, t.rsp))
      (step (cmd 0x00000010 { rxReady with mode := .powerDown, bools := [false] })) =
      some (false, .powerDown, [⟨.done, 0⟩]) := by decide
/-- M6. -/
theorem test_send_too_long : field State.rsp (step (cmd 0x00050711 rxReady)) = some [⟨.illegal, 0⟩] := by decide
/-- M4, its step s2. -/
theorem test_send_starts :
    field (fun t => (t.mode, t.txpend, t.calls, t.rsp))
      (step { rxReady with phase := .sendS2 ⟨5, 2, true⟩ [0xAA, 0xBB] 0 }) =
      some (.tx, true, [.startTransmit 5 [0xAA, 0xBB] 2 false], [⟨.done, 1⟩]) := by decide
/-- R10, D28: in direct mode no handler exists, so on a polled line too a held SEND stays held. -/
theorem test_send_direct_no_handler :
    field (fun t => (t.mode, t.txpend, t.calls))
      (step { sending with
        cfg := { direct.cfg with irqPolled := true }
        phase := .sendS3 ⟨7, 1, false⟩ [1] 0, bools := [true] }) = some (.tx, true, []) := by decide
/-- M9, row TX. -/
theorem test_sleep :
    field (fun t => (t.mode, t.txpend, t.calls, t.rsp)) (step (cmd 0x00000012 sending)) =
      some (.sleep, false, [.sleep], [⟨.done, 0⟩]) := by decide
/-- M9, row RX. -/
theorem test_standby :
    field (fun t => (t.mode, t.calls, t.rsp)) (step (cmd 0x00000013 rxReady)) =
      some (.standby, [.standBy], [⟨.done, 0⟩]) := by decide
/-- M9, rows RX and SLEEP. -/
theorem test_powerdown :
    field (fun t => (t.mode, t.calls, t.rsp)) (step (cmd 0x00000014 rxReady)) =
        some (.powerDown, [.powerDown], [⟨.done, 0⟩]) ∧
      field (fun t => (t.mode, t.calls, t.rsp)) (step (cmd 0x00000014 { rxReady with mode := .sleep })) =
        some (.sleep, [], [⟨.illegal, 0⟩]) := by decide
/-- M9, rows POWER_DOWN and TX. -/
theorem test_powerup :
    field (fun t => (t.mode, t.calls)) (step (cmd 0x00000015 { rxReady with mode := .powerDown })) =
        some (.rx, [.powerUp]) ∧
      field (fun t => (t.mode, t.txpend)) (step (cmd 0x00000015 sending)) = some (.tx, true) := by decide
/-- F1. -/
theorem test_setaddr :
    field (fun t => (t.addr, t.calls, t.rsp)) (step (cmd 0x00002A20 cold)) =
      some (0x2A, [.setAddress 0x2A], [⟨.done, 0⟩]) := by decide
/-- F1. -/
theorem test_getaddr :
    field State.rsp (step (cmd 0x00000021 { cold with addr := 0x2A })) = some [⟨.done, 42⟩] := by decide
/-- F4: 23 is forwarded, 24 is not. -/
theorem test_settxlvl :
    field (fun t => (t.calls, t.rsp)) (step (cmd 0x00001722 { rxReady with bools := [true] })) =
        some ([.setTxPowerLevel 23], [⟨.done, 1⟩]) ∧
      field (fun t => (t.calls, t.rsp)) (step (cmd 0x00001822 { rxReady with bools := [true] })) =
        some ([], [⟨.done, 0⟩]) := by decide
/-- F8, F5. -/
theorem test_gettxlvl :
    field State.rsp (step (cmd 0x00000023 { rxReady with words := [13] })) = some [⟨.done, 13⟩] ∧
      field State.rsp (step (cmd 0x00000023 plain)) = some [⟨.done, 0x7FF3⟩] := by decide
/-- F6: 100 is forwarded, 101 is not. -/
theorem test_settxpct :
    field (fun t => (t.calls, t.rsp)) (step (cmd 0x00006424 { rxReady with bools := [true] })) =
        some ([.setTxPowerPercent 100], [⟨.done, 1⟩]) ∧
      field (fun t => (t.calls, t.rsp)) (step (cmd 0x00006524 { rxReady with bools := [true] })) =
        some ([], [⟨.done, 0⟩]) := by decide
/-- F7. -/
theorem test_gettxpct : field State.rsp (step (cmd 0x00000025 plain)) = some [⟨.done, 0x7FF4⟩] := by decide
/-- F7. -/
theorem test_getsrssi : field State.rsp (step (cmd 0x00000026 plain)) = some [⟨.done, 0x7FF1⟩] := by decide
/-- F8: the collaborator reports -70. -/
theorem test_getrrssi :
    field (fun t => (t.calls, t.rsp.map Rsp.word))
      (step (cmd 0x00000027 { rxReady with words := [BitVec.ofInt 16 (-70)] })) =
      some ([.getRssi false], [0x0FFBA]) := by decide
/-- F7. -/
theorem test_getssnr : field State.rsp (step (cmd 0x00000028 plain)) = some [⟨.done, 0x7FF2⟩] := by decide
/-- F8. -/
theorem test_getrsnr :
    field (fun t => (t.calls, t.rsp)) (step (cmd 0x00000029 { rxReady with words := [9] })) =
      some ([.getSnr false], [⟨.done, 9⟩]) := by decide
/-- F9. -/
theorem test_sanity :
    field State.rsp (step (cmd 0x0000002A { rxReady with bools := [true] })) = some [⟨.done, 1⟩] ∧
      field State.rsp (step (cmd 0x0000002A { rxReady with bools := [false] })) = some [⟨.done, 0⟩] := by decide
/-- Q5 at H6's slot: six bytes are stored as four, TAIL wraps from 3 to 0. -/
theorem test_irq_caps_and_wraps :
    field (fun t => (t.slotFrame 3, t.tail, t.occ, t.lost))
      (step (event 0x81 { rxReady with head := 3, tail := 3, frames := [⟨[1, 2, 3, 4, 5, 6], false⟩] })) =
      some ([1, 2, 3, 4], 0, 1, 0) := by decide
/-- H4a, H4b. -/
theorem test_irq_saturates :
    field (fun t => (t.lost, t.occ, t.calls)) (step (event 0x81 { full with lost := 254 })) =
        some (255, 4, [.irqHousekeeping, .readFrame false]) ∧
      field State.lost (step (event 0x81 { full with lost := 255 })) = some 255 := ⟨rfl, rfl⟩

/-! ## Witnesses -/

/-- Everything the invariant asks, as a check to be evaluated. -/
def invCheck (s : State) : Bool :=
  s.cfg.wellFormed && decide (s.occ.toNat ≤ s.cfg.n) && decide (s.head.toNat < s.cfg.n) &&
    decide (s.tail.toNat < s.cfg.n) && decide (s.tail.toNat = s.slotIndex s.occ.toNat) &&
    decide (∀ k, k < s.occ.toNat → (s.slotLen (s.slotIndex k)).toNat ≤ s.cfg.maxFrameLen) &&
    decide (s.txpend = true ↔ s.mode = .tx) && s.mem.wf && s.mem.inside s.cfg.memSize

theorem inv_of {s : State} (h : invCheck s = true) (hp : s.phaseInv) : s.Inv := by
  simp only [invCheck, Bool.and_eq_true, decide_eq_true_eq] at h
  obtain ⟨⟨⟨⟨⟨⟨⟨⟨h1, h2⟩, h3⟩, h4⟩, h5⟩, h6⟩, h7⟩, h8⟩, h9⟩ := h
  exact ⟨h1, h2, h3, h4, h5, h6, h7, h8, h9, hp⟩

/-- A RECEIVE at a full queue, before c2[0]. -/
def reading : State := { full with phase := .recvC2 1 0 }
/-- A RECEIVE between c3 and c4 at a full queue (P4). -/
def popping : State := { full with head := 1, phase := .recvC4 1 }
/-- A RECEIVE between c3 and c4 with room for a frame. -/
def poppingOne : State := { one with head := 1, phase := .recvC4 1 }
/-- A SEND held at s3. -/
def heldS3 : State := { sending with phase := .sendS3 ⟨7, 1, false⟩ [1] 0 }
/-- A SEND held at s2 (M8). -/
def heldS2 : State := { sending with phase := .sendS2 ⟨5, 0, true⟩ [] 0 }
/-- A direct RECEIVE before u1. -/
def copying : State := { direct with phase := .directU 1 [7] true }

theorem inv_cold : cold.Inv := inv_of (by decide) trivial
theorem inv_rxReady : rxReady.Inv := inv_of (by decide) trivial
theorem inv_one : one.Inv := inv_of (by decide) trivial
theorem inv_full : full.Inv := inv_of (by decide) trivial
theorem inv_direct : direct.Inv := inv_of (by decide) trivial
theorem inv_reading : reading.Inv :=
  inv_of (by decide) (show _ = true ∧ _ ∧ _ ∧ _ from ⟨by decide, by decide, by decide, by decide⟩)
theorem inv_popping : popping.Inv :=
  inv_of (by decide) (show _ = true ∧ _ ∧ _ from ⟨by decide, by decide, by decide⟩)
theorem inv_poppingOne : poppingOne.Inv :=
  inv_of (by decide) (show _ = true ∧ _ ∧ _ from ⟨by decide, by decide, by decide⟩)
theorem inv_heldS3 : heldS3.Inv :=
  inv_of (by decide)
    (show _ ∧ _ ∧ _ ∧ _ ∧ _ ∧ _ from ⟨by decide, by decide, by decide, by decide, by decide, by decide⟩)

theorem witness_UnusedOperandBitsIgnored :
    decodeCommand 0x00020511 = .ok (.send 5 2 false) ∧
      0xFE020511#32 &&& (Instr.send 5 2 false).usedBits = 0x00020511#32 &&& (Instr.send 5 2 false).usedBits := by
  decide

/-- Each clause at its bounds: 0x00; 0x06, 0x0F; 0x16, 0x1F; 0x2B, 0xFF; RDCSR 5, 255. -/
theorem witness_ReservedCommandAnswersIllegal :
    (cmd 0x00000000 cold).phase = .idle ∧ (cmd 0x00000000 cold).inputs = .word (.cw 0x00000000) :: [] ∧
      (0x00#32).toNat % 256 = 0 ∧
      (∀ w ∈ [0x06#32, 0x0F#32], 0x06 ≤ w.toNat % 256 ∧ w.toNat % 256 ≤ 0x0F) ∧
      (∀ w ∈ [0x16#32, 0x1F#32], 0x16 ≤ w.toNat % 256 ∧ w.toNat % 256 ≤ 0x1F) ∧
      (∀ w ∈ [0x2B#32, 0xFF#32], 0x2B ≤ w.toNat % 256) ∧
      (∀ w ∈ [0x0505#32, 0xFF05#32], w.toNat % 256 = 0x05 ∧ 5 ≤ w.toNat / 256 % 256) := by
  refine ⟨rfl, rfl, rfl, ?_, ?_, ?_, ?_⟩ <;> simp

theorem witness_StepAcceptsDecodedCommand :
    (cmd 0x00000003 cold).phase = .idle ∧ (cmd 0x00000003 cold).inputs = .word (.cw 0x00000003) :: [] ∧
      decode (.cw 0x00000003) = .ok .qempty := by decide

theorem witness_StepTakesDecodedEvent :
    (event 0x81 rxReady).inputs = .word (.ev 0x81) :: [] ∧ decode (.ev 0x81) = .ok (.irq true) := by decide

theorem witness_StepContinuesOperation :
    reading.phase.instr = some .receive ∧ reading.inputs = [] ∧
      ({ reading with inputs := [.tick] } : State).inputs = .tick :: [] ∧
      (cmd 0x00000003 reading).inputs = .word (.cw 0x00000003) :: [] ∧ cold.phase = .idle := by decide

/-- A step that answers, and one that leaves an operation in progress. -/
theorem witness_OneResponsePerOperation :
    (¬ (cmd 0x00000003 one).resetNext ∧ ∃ t, step (cmd 0x00000003 one) = .next t) ∧
      (¬ (cmd 0x00000002 one).resetNext ∧ ∃ t, step (cmd 0x00000002 one) = .next t) :=
  ⟨⟨by unfold State.resetNext; decide, _, rfl⟩, ⟨by unfold State.resetNext; decide, _, rfl⟩⟩

theorem witness_IllegalChangesNothing :
    cold.phase = .idle ∧ ∃ t, exec .sleep cold = .next t ∧ t.rsp = cold.rsp ++ [⟨.illegal, 0⟩] :=
  ⟨rfl, _, rfl, rfl⟩

theorem witness_ConfigurationNeverChanges : ∃ t, step (cmd 0x00000015 sending) = .next t := ⟨_, rfl⟩

theorem witness_ResetInputResetsRegisters :
    ({ popping with lost := 3, inputs := [.rst] } : State).inputs = .rst :: [] := rfl

theorem witness_ResetMeetsInvariant :
    cfgT.wellFormed = true ∧ ({ cfgT with n := 1, maxFrameLen := 1 } : Config).wellFormed = true ∧
      ({ cfgT with n := 255, maxFrameLen := 255 } : Config).wellFormed = true := by decide

theorem witness_PreInitAnswers :
    (cfgT.wellFormed = true ∧ cfgT.buffered = true ∧ cfgT.irqPolled = false ∧
        cold = { State.resetWith cfgT with addr := 0, mem := [] }) ∧
      (polled.cfg.wellFormed = true ∧ polled.cfg.buffered = true ∧ polled.cfg.irqPolled = true) := by decide

theorem witness_AvailableAnswersOccupancy :
    (one.phase = .idle ∧ one.cfg.buffered = true ∧ one.cfg.irqPolled = false) ∧
      ({ polled with phase := .availA1 } : State).phase = .availA1 := by decide

/-- A clause each: off twice, not asserted, MODE = TX, no frame, a full queue, room. -/
theorem witness_AvailablePollsOnce :
    (∀ s ∈ [{ polled with ready := false }, { polled with mode := .sleep }],
      s.phase = .idle ∧ s.cfg.buffered = true ∧ s.cfg.irqPolled = true ∧
        (s.ready = false ∨ s.mode.active = false)) ∧
    (∀ s ∈ [{ polled with bools := [false] }, { polled with mode := .tx, txpend := true, bools := [true] },
        { polled with bools := [true, false] }, { full with cfg := polled.cfg, bools := [true, true] },
        { polled with bools := [true, true] }],
      s.phase = .idle ∧ s.cfg.buffered = true ∧ s.cfg.irqPolled = true ∧ s.ready = true ∧
        s.mode.active = true) ∧
    ({ polled with bools := [false] } : State).nextBool = false ∧
    ({ polled with mode := .tx, txpend := true, bools := [true] } : State).nextBool = true ∧
    (({ polled with bools := [true, false] } : State).nextBool = true ∧
      ({ polled with bools := [true, false] } : State).dropBool.nextBool = false) ∧
    (∃ s : State, s.cfg = polled.cfg ∧ s.mode = .rx ∧ s.nextBool = true ∧ s.dropBool.nextBool = true ∧
      s.occ.toNat = s.cfg.n) ∧
    (∃ s : State, s.Inv ∧ s.phase = .idle ∧ s.cfg.buffered = true ∧ s.cfg.irqPolled = true ∧ s.ready = true ∧
      s.mode = .rx ∧ s.nextBool = true ∧ s.dropBool.nextBool = true ∧ s.occ.toNat < s.cfg.n) :=
  ⟨by decide, by decide, by decide, by decide, by decide,
    ⟨{ full with cfg := polled.cfg, bools := [true, true] }, by decide⟩,
    ⟨{ polled with bools := [true, true] }, inv_of (by decide) trivial, by decide⟩⟩

theorem witness_AvailableDirectAsksChip : direct.phase = .idle ∧ direct.cfg.buffered = false := by decide

theorem witness_ReceiveEmptyAnswersNone :
    cold.phase = .idle ∧ cold.cfg.buffered = true ∧ cold.occ.toNat = 0 := by decide

/-- Each clause, c2 and c3 at i = L - 1 and i = L. -/
theorem witness_ReceiveMicroSteps :
    one.head.toNat < one.cfg.n ∧ reading.head.toNat < reading.cfg.n ∧ popping.head.toNat < popping.cfg.n ∧
      (one.phase = .idle ∧ one.cfg.buffered = true ∧ one.occ.toNat ≠ 0) ∧
      ({ one with phase := .recvC1 } : State).phase = .recvC1 ∧
      (reading.phase = .recvC2 1 0 ∧ 0 < (1 : Byte).toNat ∧ 0 < reading.cfg.maxFrameLen) ∧
      (({ reading with phase := .recvC2 1 1 } : State).phase = .recvC2 1 1 ∧ (1 : Byte).toNat ≤ 1) ∧
      popping.phase = .recvC4 1 := by decide

theorem witness_ReceivePopsOldestFrame :
    (cmd 0x00000002 full).Inv ∧ (cmd 0x00000002 full).phase = .idle ∧
      (cmd 0x00000002 full).cfg.buffered = true ∧
      (cmd 0x00000002 full).inputs = [.word (.cw 0x00000002)] ∧
      (cmd 0x00000002 full).queue = [0x11] :: [[0x21], [0x31], [0x41]] :=
  ⟨inv_of (by decide) trivial, by decide⟩

theorem witness_ReceiveDirectMicroSteps :
    (direct.phase = .idle ∧ direct.cfg.buffered = false) ∧ copying.phase = .directU 1 (7 :: []) true ∧
      ({ direct with phase := .directU 0 [] false } : State).phase = .directU 0 [] false := by decide

theorem witness_ReceiveDirectCopiesChipFrame :
    (cmd 0x00000002 direct).phase = .idle ∧ (cmd 0x00000002 direct).cfg.wellFormed = true ∧
      (cmd 0x00000002 direct).cfg.buffered = false ∧
      (cmd 0x00000002 direct).inputs = [.word (.cw 0x00000002)] := by decide

theorem witness_QemptyQfullAnswerOccupancy : full.phase = .idle ∧ cold.phase = .idle := by decide

theorem witness_RdcsrReadsRegister :
    cold.phase = .idle ∧ 5 ≤ (5 : Byte).toNat ∧ 5 ≤ (255 : Byte).toNat := by decide

theorem witness_IrqStepsExactlyWhenEnabled : rxReady.Inv ∧ cold.Inv := ⟨inv_rxReady, inv_cold⟩

theorem witness_IrqStoresFrame :
    one.Inv ∧ one.cfg.buffered = true ∧ one.cfg.irqPolled = false ∧ one.ready = true ∧ one.mode = .rx ∧
      one.occ.toNat < one.cfg.n := ⟨inv_one, by decide⟩

theorem witness_IrqDiscardsAndCountsWhenFull :
    full.cfg.buffered = true ∧ full.cfg.irqPolled = false ∧ full.ready = true ∧ full.mode = .rx ∧
      full.occ.toNat = full.cfg.n := by decide

theorem witness_IrqWithoutFrameChangesNothing :
    one.cfg.buffered = true ∧ one.cfg.irqPolled = false ∧ one.ready = true ∧ one.mode = .rx := by decide

theorem witness_IrqCompletesTransmit :
    sending.cfg.buffered = true ∧ sending.cfg.irqPolled = false ∧ sending.ready = true ∧
      sending.mode = .tx := by decide

theorem witness_IrqStuckWhenNotEnabled :
    cold.ready = false ∧ ({ rxReady with mode := .standby } : State).mode.active = false := by decide

theorem witness_HandlerKeepsToItsState :
    full.cfg.wellFormed = true ∧ ∃ t, exec (.irq true) full = .next t := ⟨by decide, _, rfl⟩

theorem witness_InterruptLeavesMainFrozen : ∃ t, exec (.irq false) heldS3 = .next t := ⟨_, rfl⟩

theorem witness_InitSucceeds :
    cold.phase = .idle ∧ ({ cold with bools := [true] } : State).nextBool = true := by decide

theorem witness_InitFails :
    cold.phase = .idle ∧ ({ cold with bools := [false] } : State).nextBool = false ∧
      cold.cfg.encryption = false := by decide

theorem witness_SendRejected :
    rxReady.phase = .idle ∧ cold.ready = false ∧
      ({ rxReady with mode := .sleep } : State).mode.active = false ∧
      rxReady.cfg.maxFrameLen < (5 : Byte).toNat := by decide

/-- The lengths 0 and MAX_FRAME_LEN, and one byte too few. -/
theorem witness_SendTakesPayload :
    (rxReady.phase = .idle ∧ rxReady.ready = true ∧ rxReady.mode.active = true ∧
        (0 : Byte).toNat ≤ rxReady.cfg.maxFrameLen ∧ (4 : Byte).toNat ≤ rxReady.cfg.maxFrameLen) ∧
      (∃ s : State, s.phase = .sendS1 ⟨7, 4, true⟩ ∧ (4 : Byte).toNat ≤ s.txd.length) ∧
      (∃ s : State, s.phase = .sendS1 ⟨7, 4, true⟩ ∧ s.txd.length < (4 : Byte).toNat) :=
  ⟨by decide, ⟨{ rxReady with phase := .sendS1 ⟨7, 4, true⟩, txd := [1, 2, 3, 4] }, by decide⟩,
    ⟨{ rxReady with phase := .sendS1 ⟨7, 4, true⟩, txd := [1, 2, 3] }, by decide⟩⟩

theorem witness_SendStartsTransmit :
    rxReady.mode = .rx ∧
      ({ rxReady with phase := .sendS2 ⟨5, 0, true⟩ [] 0 } : State).phase = .sendS2 ⟨5, 0, true⟩ [] 0 ∧
      ({ rxReady with phase := .sendS2 ⟨5, 0, false⟩ [] 1 } : State).phase = .sendS2 ⟨5, 0, false⟩ [] 1 := by
  decide

theorem witness_SendHeldUntilTransmitCompletes :
    (heldS2.phase = .sendS2 ⟨5, 0, true⟩ [] 0 ∧ heldS2.mode ≠ .rx ∧ heldS2.cfg.irqPolled = false) ∧
      (heldS3.phase = .sendS3 ⟨7, 1, false⟩ [1] 0 ∧ heldS3.txpend = true) ∧
      (∃ s : State, s.phase = .sendS3 ⟨7, 1, false⟩ [1] 0 ∧ s.txpend = true ∧ s.cfg.buffered = false) ∧
      (∃ s : State, s.phase = .sendS3 ⟨7, 1, false⟩ [1] 0 ∧ s.txpend = true ∧ s.ready = false) ∧
      (∃ s : State, s.phase = .sendS2 ⟨5, 0, true⟩ [] 0 ∧ s.mode ≠ .rx ∧ s.mode.active = false) ∧
      (∃ s : State, s.phase = .sendS3 ⟨7, 1, false⟩ [1] 0 ∧ s.txpend = true ∧ s.cfg.irqPolled = true ∧
        s.cfg.buffered = true ∧ s.ready = true ∧ s.mode = .tx ∧ s.nextBool = false) ∧
      (∃ s : State, s.phase = .sendS3 ⟨7, 1, false⟩ [1] 0 ∧ s.txpend = true ∧ s.cfg.irqPolled = true ∧
        s.cfg.buffered = true ∧ s.ready = true ∧ s.mode = .tx ∧ s.nextBool = true) :=
  ⟨by decide, by decide, ⟨{ heldS3 with cfg := direct.cfg }, by decide⟩,
    ⟨{ heldS3 with ready := false }, by decide⟩, ⟨{ heldS2 with mode := .sleep }, by decide⟩,
    ⟨{ heldS3 with cfg := polled.cfg, bools := [false] }, by decide⟩,
    ⟨{ heldS3 with cfg := polled.cfg, bools := [true] }, by decide⟩⟩

/-- RETRIES = 1: the attempts a = 0 and a = 1. -/
theorem witness_SendAsksAndRetries :
    (∃ s : State, s.phase = .sendS3 ⟨7, 1, false⟩ [1] 0 ∧ s.txpend = false) ∧
      (∃ s : State, s.phase = .sendS4 ⟨7, 1, false⟩ [1] 0 ∧ s.nextBool = true) ∧
      (∃ s : State, s.phase = .sendS4 ⟨7, 1, false⟩ [1] 0 ∧ s.nextBool = false ∧ 0 < s.cfg.retries) ∧
      (∃ s : State, s.phase = .sendS4 ⟨7, 1, false⟩ [1] 1 ∧ s.nextBool = false ∧ s.cfg.retries ≤ 1) :=
  ⟨⟨{ rxReady with phase := .sendS3 ⟨7, 1, false⟩ [1] 0 }, by decide⟩,
    ⟨{ rxReady with phase := .sendS4 ⟨7, 1, false⟩ [1] 0, bools := [true] }, by decide⟩,
    ⟨{ rxReady with phase := .sendS4 ⟨7, 1, false⟩ [1] 0, bools := [false] }, by decide⟩,
    ⟨{ rxReady with phase := .sendS4 ⟨7, 1, false⟩ [1] 1, bools := [false] }, by decide⟩⟩

theorem witness_SuppressedSendAlwaysSucceeds :
    ∃ s : State, encode (.send 7 4 true) = .cw 0x01040711 ∧ s.phase = .idle ∧ s.ready = true ∧ s.mode = .rx ∧
      (4 : Byte).toNat ≤ s.cfg.maxFrameLen ∧ (4 : Byte).toNat ≤ s.txd.length ∧
      s.inputs = [.word (.cw 0x01040711)] :=
  ⟨{ cmd 0x01040711 rxReady with txd := [1, 2, 3, 4] }, by decide⟩

theorem witness_AcknowledgedSendReturnsToRx :
    ∃ s : State, encode (.send 7 3 false) = .cw 0x00030711 ∧ s.phase = .idle ∧ s.cfg.buffered = true ∧
      s.cfg.irqPolled = false ∧ s.ready = true ∧ s.mode = .rx ∧ s.txpend = false ∧
      (3 : Byte).toNat ≤ s.cfg.maxFrameLen ∧ (3 : Byte).toNat ≤ s.txd.length ∧ s.nextBool = true ∧
      s.inputs = [.word (.cw 0x00030711), .tick, .tick, .word (.ev 0x80)] :=
  ⟨{ rxReady with
      txd := [1, 2, 3], bools := [true]
      inputs := [.word (.cw 0x00030711), .tick, .tick, .word (.ev 0x80)] }, by decide⟩

theorem witness_LowPowerEntry :
    rxReady.phase = .idle ∧ (rxReady.ready = true ∧ rxReady.mode = .rx) ∧
      (sending.phase = .idle ∧ sending.ready = true ∧ sending.mode = .tx) ∧
      (cold.phase = .idle ∧ cold.ready = false) ∧
      (({ rxReady with mode := .sleep } : State).mode ≠ .rx ∧
        ({ rxReady with mode := .sleep } : State).mode ≠ .tx) := by decide

theorem witness_PowerUpReturnsToRx :
    (sending.phase = .idle ∧ sending.ready = true) ∧ (cold.phase = .idle ∧ cold.ready = false) := by decide

/-- Into TX; into a low-power mode; out of one, by POWERUP and by INIT; from TX to RX, by an interrupt, by the
poll of AVAILABLE, by the poll of a SEND held at s2 and at s3, and by INIT. -/
theorem witness_ModeChangesOnlyAsListed :
    (∃ s t : State, ¬ s.resetNext ∧ step s = .next t ∧ t.mode ≠ s.mode ∧ t.mode = .tx) ∧
      (∃ s t : State, ¬ s.resetNext ∧ step s = .next t ∧ t.mode ≠ s.mode ∧ t.mode.active = false) ∧
      (∀ s ∈ [cmd 0x00000015 { rxReady with mode := .powerDown },
          cmd 0x00000010 { rxReady with mode := .sleep, bools := [true] }],
        ¬ s.resetNext ∧ s.mode.active = false ∧ field State.mode (step s) = some .rx) ∧
      (∀ s ∈ [event 0x80 heldS3,
          cmd 0x00000001 { sending with cfg := polled.cfg, bools := [true] },
          { heldS2 with cfg := polled.cfg, bools := [true] },
          { heldS3 with cfg := polled.cfg, bools := [true] },
          cmd 0x00000010 { sending with bools := [true] }],
        ¬ s.resetNext ∧ s.mode = .tx ∧ field State.mode (step s) = some .rx) :=
  ⟨⟨{ rxReady with phase := .sendS2 ⟨5, 0, true⟩ [] 0 }, _, by unfold State.resetNext; decide, rfl,
      by decide, by decide⟩,
    ⟨cmd 0x00000013 sending, _, by unfold State.resetNext; decide, rfl, by decide, by decide⟩,
    by unfold State.resetNext; decide, by unfold State.resetNext; decide⟩

theorem witness_AddressRegister : sending.phase = .idle := by decide

/-- 23 and 24, 100 and 101, and a variant without the feature. -/
theorem witness_PowerSettingsRangeChecked :
    rxReady.phase = .idle ∧ (rxReady.cfg.hasTxLevel = true ∧ (23 : Byte).toNat ≤ 23) ∧
      23 < (24 : Byte).toNat ∧ plain.cfg.hasTxLevel = false ∧
      (rxReady.cfg.hasTxPercent = true ∧ (100 : Byte).toNat ≤ 100) ∧ 100 < (101 : Byte).toNat ∧
      plain.cfg.hasTxPercent = false ∧ plain.phase = .idle := by decide

theorem witness_QueriesAnswerValueOrSentinel : rxReady.phase = .idle ∧ plain.phase = .idle := by decide

theorem witness_SanityForwardsSelfTest : cold.phase = .idle := by decide

theorem witness_FacadeTouchesOnlyAddress : isFacade .sanity = true ∧ cold.phase = .idle := by decide

theorem witness_InvariantKept : heldS3.Inv ∧ ∃ t, step (event 0x80 heldS3) = .next t := ⟨inv_heldS3, _, rfl⟩

/-- A push by an interrupt, one by the poll of AVAILABLE, and a pop at c4. -/
theorem witness_QueueIsFifo :
    (∃ s t : State, s.Inv ∧ ¬ s.resetNext ∧ step s = .next t ∧ t.queue = s.queue ++ [[1, 2]]) ∧
      (∃ s t : State, s.Inv ∧ ¬ s.resetNext ∧ s.cfg.irqPolled = true ∧ step s = .next t ∧
        t.queue = s.queue ++ [[1, 2]]) ∧
      (∃ s t : State, s.Inv ∧ ¬ s.resetNext ∧ step s = .next t ∧ s.queue = [0x11] :: t.queue) :=
  ⟨⟨event 0x81 { one with frames := [⟨[1, 2], false⟩] }, _, inv_of (by decide) trivial,
      by unfold State.resetNext; decide, rfl, by decide⟩,
    ⟨cmd 0x00000001 { one with cfg := polled.cfg, bools := [true, true], frames := [⟨[1, 2], false⟩] }, _,
      inv_of (by decide) trivial, by unfold State.resetNext; decide, by decide, rfl, by decide⟩,
    ⟨popping, _, inv_popping, by unfold State.resetNext; decide, rfl, by decide⟩⟩

theorem witness_SlotBeingReadIsStable :
    reading.Inv ∧ reading.phase = .recvC2 1 0 ∧ ¬ reading.resetNext ∧ ∃ t, step reading = .next t :=
  ⟨inv_reading, rfl, by unfold State.resetNext; decide, _, rfl⟩

theorem witness_LostCountsDiscards :
    ¬ (event 0x81 full).resetNext ∧ ∃ t, step (event 0x81 full) = .next t ∧ t.lost = 1 :=
  ⟨by unfold State.resetNext; decide, _, rfl, by decide⟩

theorem witness_MainNeverProduces :
    isMain .receive = true ∧ popping.cfg.irqPolled = false ∧ ∃ t, exec .receive popping = .next t :=
  ⟨rfl, by decide, _, rfl⟩

theorem witness_NotReadyFreezesQueue :
    (cmd 0x00000012 cold).ready = false ∧ ¬ (cmd 0x00000012 cold).resetNext ∧
      ∃ t, step (cmd 0x00000012 cold) = .next t := ⟨rfl, by unfold State.resetNext; decide, _, rfl⟩

theorem witness_DirectModeLeavesQueue :
    direct.Inv ∧ direct.cfg.buffered = false ∧ ¬ direct.resetNext ∧ ∃ t, step direct = .next t :=
  ⟨inv_direct, by decide, by unfold State.resetNext; decide, _, rfl⟩

theorem witness_OccupancyUpdatesCommute :
    poppingOne.Inv ∧ poppingOne.phase = .recvC4 1 ∧ poppingOne.cfg.irqPolled = false ∧
      poppingOne.ready = true ∧ poppingOne.mode = .rx ∧ poppingOne.occ.toNat < poppingOne.cfg.n :=
  ⟨inv_poppingOne, by decide⟩

/-- Before c1, before c2[0], and at c4, where the second clause applies too. -/
theorem witness_FullQueueLossWindow :
    (∀ s ∈ [{ full with phase := .recvC1 }, reading], s.phase.instr = some .receive ∧ s.cfg.buffered = true ∧
        s.cfg.irqPolled = false ∧ s.ready = true ∧ s.mode = .rx ∧ s.occ.toNat = s.cfg.n) ∧
      ({ full with phase := .recvC1 } : State).Inv ∧ reading.Inv ∧ popping.Inv ∧ popping.phase.instr = some .receive ∧ popping.cfg.buffered = true ∧
      popping.cfg.irqPolled = false ∧ popping.ready = true ∧ popping.mode = .rx ∧
      popping.occ.toNat = popping.cfg.n ∧ popping.phase = .recvC4 1 :=
  ⟨by decide, inv_of (by decide) (show _ = true ∧ _ from by decide), inv_reading, inv_popping, by decide⟩

/-- The lengths 0 and MAX_FRAME_LEN. -/
theorem witness_PushPopRoundTrip :
    ∀ b ∈ [[], [0xDE, 0xAD, 0xBE, 0xEF]], ∃ s : State, s.Inv ∧ s.phase = .idle ∧ s.cfg.buffered = true ∧
      s.cfg.irqPolled = false ∧ s.ready = true ∧ s.mode = .rx ∧ s.occ.toNat = 0 ∧
      s.frames = ⟨b, false⟩ :: [] ∧ b.length ≤ s.cfg.maxFrameLen ∧
      s.inputs = [.word (.ev 0x81), .word (.cw 0x00000002)] := by
  intro b hb
  simp only [List.mem_cons, List.not_mem_nil, or_false] at hb
  rcases hb with rfl | rfl
  · exact ⟨{ rxReady with
      frames := [⟨[], false⟩], inputs := [.word (.ev 0x81), .word (.cw 0x00000002)] },
      inv_of (by decide) trivial, by decide⟩
  · exact ⟨{ rxReady with
      frames := [⟨[0xDE, 0xAD, 0xBE, 0xEF], false⟩]
      inputs := [.word (.ev 0x81), .word (.cw 0x00000002)] }, inv_of (by decide) trivial, by decide⟩

end Sys2Proof.Tests
end

section
/-! SUPPORT. The queue's registers as one value, and what each move does to them: only c3, c4, a poll and a
handler invocation write any of them (10_state R36, 40_queue_ops R127, 41_irq_handler R161). -/

namespace Sys2Proof.Machine

/-- The parameters, the registers of the queue, LOST and the slots. -/
structure QueueRegs where
  cfg  : Config
  occ  : Byte
  head : Byte
  tail : Byte
  lost : Byte
  mem  : Memory

/-- The queue's part of the state. -/
def State.queueRegs (s : State) : QueueRegs where
  cfg := s.cfg
  occ := s.occ
  head := s.head
  tail := s.tail
  lost := s.lost
  mem := s.mem

theorem queueRegs_eq {s t : State} : t.queueRegs = s.queueRegs ↔
    t.cfg = s.cfg ∧ t.occ = s.occ ∧ t.head = s.head ∧ t.tail = s.tail ∧ t.lost = s.lost ∧ t.mem = s.mem := by
  simp [State.queueRegs]

/-- Calls that read no frame leave the queue alone. -/
theorem AskedOnly.queueRegs {s u : State} (h : AskedOnly s u) : u.queueRegs = s.queueRegs :=
  (congrArg State.queueRegs h.same).trans rfl

theorem AskedOnly.rsp {s u : State} (h : AskedOnly s u) : u.rsp = s.rsp := (congrArg State.rsp h.same).trans rfl

/-- Everything a move can do to the queue's registers. -/
theorem Move.queue_cases {i : Instr} {s t : State} (m : Move s t i) :
    t.queueRegs = s.queueRegs ∨
      (∃ len j, s.phase = .recvC2 len j ∧
        t.queueRegs = { s.queueRegs with head := nextIndex s.cfg s.head }) ∨
      (∃ len, s.phase = .recvC4 len ∧
        t.queueRegs = { s.queueRegs with occ := BitVec.ofNat 8 (s.occ.toNat - 1) }) ∨
      (∃ u, pollService s = .next u ∧ t.queueRegs = u.queueRegs) ∨
      ∃ f, s.irqEnabled = true ∧ takeInterrupt f s = .next t := by
  cases m
  case c3 len j hp _ ht => exact .inr (.inl ⟨len, j, hp, ht ▸ rfl⟩)
  case c4 len hp ht => exact .inr (.inr (.inl ⟨len, hp, ht ▸ rfl⟩))
  case poll u _ _ _ hu ht => exact .inr (.inr (.inr (.inl ⟨u, hu, ht ▸ rfl⟩)))
  case hold hwait =>
    obtain ⟨_, ht⟩ | ⟨_, hpoll⟩ := hwait
    · exact .inl (ht ▸ rfl)
    · exact .inr (.inr (.inr (.inl ⟨t, hpoll, rfl⟩)))
  case irq f hen hint => exact .inr (.inr (.inr (.inr ⟨f, hen, hint⟩)))
  case answer | u2 | initOk | initFailed | s4End | s4Again | lowPower | powerUp | setaddr =>
    subst_vars
    have hu : AskedOnly s _ := ‹_›
    exact .inl hu.queueRegs
  case illegal | none | c0 | c1 | c2 | u0 | u1 | s0 | s1 | s2 | s2End | s3 =>
    subst_vars
    exact .inl rfl

/-- A step resets the machine, or leaves the queue's registers alone, or is `exec` of an instruction. -/
theorem step_queue_cases {s t : State} (h : step s = .next t) :
    (∃ rest, s.inputs = .rst :: rest ∧ t = hardwareReset { s with inputs := rest }) ∨
      t.queueRegs = s.queueRegs ∨ ∃ i rest, exec i { s with inputs := rest } = .next t := by
  cases step_from h with
  | reset rest hin ht => exact .inl ⟨rest, hin, ht⟩
  | waits _ _ _ ht => exact .inr (.inl (ht ▸ rfl))
  | reserved _ _ _ _ _ _ ht => exact .inr (.inl (ht ▸ rfl))
  | goesOn i rest _ _ _ hx => exact .inr (.inr ⟨i, rest, hx⟩)
  | accepts i _ rest _ _ _ hx => exact .inr (.inr ⟨i, rest, hx⟩)
  | interrupt i _ rest _ _ hx => exact .inr (.inr ⟨i, rest, hx⟩)

theorem exec_cfg {i : Instr} {s t : State} (h : exec i s = .next t) : t.cfg = s.cfg := by
  obtain hq | ⟨_, _, _, hq⟩ | ⟨_, _, hq⟩ | ⟨u, hpoll, hq⟩ | ⟨_, _, hint⟩ := (exec_move h).queue_cases
  · exact congrArg QueueRegs.cfg hq
  · exact congrArg QueueRegs.cfg hq
  · exact congrArg QueueRegs.cfg hq
  · exact (congrArg QueueRegs.cfg hq).trans (pollService_frame hpoll).1
  · exact (takeInterrupt_frame hint).1

end Sys2Proof.Machine
end

section
/-! SUPPORT. Direct mode: with BUFFERED = 0 there is no handler and no buffered RECEIVE (00_scope R10,
40_queue_ops R128). -/

namespace Sys2Proof.Machine

theorem handlerInUse_direct {s : State} (hb : s.cfg.buffered = false) : s.handlerInUse = false := by
  simp [State.handlerInUse, hb]

/-- The phases of a RECEIVE from the queue belong to buffered mode. -/
theorem phaseInv_buffered {s : State} (hinv : s.phaseInv)
    (hp : (∃ len j, s.phase = .recvC2 len j) ∨ ∃ len, s.phase = .recvC4 len) : s.cfg.buffered = true := by
  unfold State.phaseInv at hinv
  obtain ⟨len, j, hp⟩ | ⟨len, hp⟩ := hp
  · rw [hp] at hinv
    exact hinv.1
  · rw [hp] at hinv
    exact hinv.1

/-- In direct mode none of the moves that write the queue is there: no RECEIVE from the queue is in
progress, a poll does nothing and the IRQ agent has no step. -/
theorem exec_direct_queueRegs {i : Instr} {s t : State} (hinv : s.phaseInv) (hb : s.cfg.buffered = false)
    (h : exec i s = .next t) : t.queueRegs = s.queueRegs := by
  have hbuf : s.cfg.buffered ≠ true := by simp [hb]
  obtain hq | ⟨len, j, hp, _⟩ | ⟨len, hp, _⟩ | ⟨u, hpoll, hq⟩ | ⟨_, hen, _⟩ := (exec_move h).queue_cases
  · exact hq
  · exact absurd (phaseInv_buffered hinv (.inl ⟨len, j, hp⟩)) hbuf
  · exact absurd (phaseInv_buffered hinv (.inr ⟨len, hp⟩)) hbuf
  · rw [pollService_off (handlerInUse_direct hb)] at hpoll
    rw [hq, Host.Outcome.next.inj hpoll]
  · exact absurd (irqEnabled_iff.1 hen).2.1 hbuf

end Sys2Proof.Machine
end

section
/-! SUPPORT. Responses: a micro-step of MAIN leaves its operation in progress or answers and ends it
(00_scope R18, 30_encoding R92, R104). -/

namespace Sys2Proof.Machine

/-- No answer, and an operation is in progress. -/
def LeavesInProgress (s t : State) : Prop := t.rsp = s.rsp ∧ t.phase ≠ .idle

/-- One answer, with RV = 0 unless it is DONE, and no operation is in progress. -/
def AnswersOnce (s t : State) : Prop :=
  ∃ r : Rsp, t.rsp = s.rsp ++ [r] ∧ t.phase = .idle ∧ (r.st ≠ .done → r.rv = 0)

theorem AnswersOnce.done {s t : State} {v : Half} (hr : t.rsp = s.rsp ++ [⟨.done, v⟩])
    (hp : t.phase = .idle) : AnswersOnce s t := ⟨_, hr, hp, fun hne => absurd rfl hne⟩

theorem AnswersOnce.zero {s t : State} {st : Status} (hr : t.rsp = s.rsp ++ [⟨st, 0⟩])
    (hp : t.phase = .idle) : AnswersOnce s t := ⟨_, hr, hp, fun _ => rfl⟩

/-- A SEND that is held stays in progress and is not answered. -/
theorem held_leavesInProgress {s t : State} (hp : s.phase ≠ .idle)
    (h : s.cfg.irqPolled = false ∧ t = s ∨ s.cfg.irqPolled = true ∧ pollService s = .next t) :
    LeavesInProgress s t := by
  obtain ⟨_, ht⟩ | ⟨_, hpoll⟩ := h
  · subst ht
    exact ⟨rfl, hp⟩
  · obtain ⟨_, _, _, _, hphase, _, _, hrsp, _⟩ := pollService_frame hpoll
    exact ⟨hrsp, hphase ▸ hp⟩

/-- What a micro-step of MAIN does on RSP and to the phase. -/
theorem Move.main_response {i : Instr} {s t : State} (hi : isMain i = true) (m : Move s t i) :
    LeavesInProgress s t ∨ AnswersOnce s t := by
  cases m
  case irq => cases hi
  case poll u _ _ _ hu ht =>
    obtain ⟨_, _, _, _, _, _, _, hrsp, _⟩ := pollService_frame hu
    exact .inl (ht ▸ ⟨hrsp, Phase.noConfusion⟩)
  case hold hp hwait =>
    refine .inl (held_leavesInProgress ?_ hwait)
    obtain ⟨hp, _⟩ | ⟨hp, _⟩ := hp <;> simp [hp]
  case s4Again hu ht => exact .inl (ht ▸ ⟨hu.rsp, Phase.noConfusion⟩)
  case c0 | c1 | c2 | c3 | u0 | u1 | s0 | s1 | s2 | s3 =>
    subst_vars
    exact .inl ⟨rfl, Phase.noConfusion⟩
  case illegal | none =>
    subst_vars
    exact .inr (.zero rfl rfl)
  case answer | c4 | u2 | initOk | initFailed | s2End | s4End | lowPower | powerUp | setaddr =>
    subst_vars
    exact .inr (.done rfl rfl)

/-- An operation in progress is one of MAIN's. -/
theorem phase_instr_isMain {p : Phase} {i : Instr} (h : p.instr = some i) : isMain i = true := by
  obtain rfl | rfl | ⟨_, rfl⟩ := phase_instr_cases h <;> rfl

/-- An interrupt answers nothing and leaves the phase as it was (60_exceptions R243). -/
theorem exec_irq_frame {f : Bool} {s t : State} (h : exec (.irq f) s = .next t) :
    t.rsp = s.rsp ∧ t.phase = s.phase := by
  change execIrq f s = _ at h
  unfold execIrq at h
  split at h
  · obtain ⟨_, _, _, _, hphase, _, _, hrsp, _⟩ := takeInterrupt_frame h
    exact ⟨hrsp, hphase⟩
  · cases h

end Sys2Proof.Machine
end

section
/-! The statements of the family 00_scope. -/

namespace Sys2Proof.Machine

/-- Settles O12, from what each move does to the queue's registers and parameters. -/
theorem configurationNeverChanges : Obligations.ConfigurationNeverChanges := by
  intro s t h
  obtain ⟨_, _, rfl⟩ | hq | ⟨_, _, hx⟩ := step_queue_cases h
  · rfl
  · exact congrArg QueueRegs.cfg hq
  · exact (exec_cfg hx :)

/-- Settles O57: in direct mode no step that is not reset writes the queue's registers. -/
theorem directModeLeavesQueue : Obligations.DirectModeLeavesQueue := by
  intro s t hinv hb hr h
  have hq : t.queueRegs = s.queueRegs := by
    obtain ⟨_, hin, _⟩ | hq | ⟨i, rest, hx⟩ := step_queue_cases h
    · exact absurd (by simp [State.resetNext, hin]) hr
    · exact hq
    · exact exec_direct_queueRegs (s := { s with inputs := rest }) hinv.phase hb hx
  exact (queueRegs_eq.1 hq).2

/-- Settles O10, by cases on where the step comes from. -/
theorem oneResponsePerOperation : Obligations.OneResponsePerOperation := by
  intro s t hr h
  cases step_from h with
  | reset rest hin _ => exact absurd (by simp [State.resetNext, hin]) hr
  | waits rest hp hin ht =>
    exact .inl ⟨ht ▸ rfl, fun hne => absurd hp hne, fun w rest' _ hw => by simp [hw] at hin⟩
  | reserved w rest e hin hp _ ht =>
    subst ht
    exact .inr ⟨_, rfl, rfl, fun _ => rfl, by simp [State.eventNext, hin], .inr ⟨w, rest, hin⟩⟩
  | goesOn i rest hi _ he hx =>
    have hp : s.phase ≠ .idle := fun hidle => by simp [hidle, Phase.instr] at hi
    obtain ⟨hrsp, hphase⟩ | ⟨r, hrsp, hphase, hrv⟩ := (exec_move hx).main_response (phase_instr_isMain hi)
    · exact .inl ⟨hrsp, fun _ => hphase, fun _ _ _ _ => hphase⟩
    · exact .inr ⟨r, hrsp, hphase, hrv, he, .inl hp⟩
  | accepts i w rest hp hin hdec hx =>
    obtain ⟨hrsp, hphase⟩ | ⟨r, hrsp, hphase, hrv⟩ := (exec_move hx).main_response (decode_cw hdec)
    · exact .inl ⟨hrsp, fun _ => hphase, fun _ _ _ _ => hphase⟩
    · exact .inr ⟨r, hrsp, hphase, hrv, by simp [State.eventNext, hin], .inr ⟨w, rest, hin⟩⟩
  | interrupt i e rest hin hdec hx =>
    obtain ⟨f, rfl⟩ := decode_ev hdec
    obtain ⟨hrsp, hphase⟩ := exec_irq_frame hx
    exact .inl ⟨hrsp, fun hne => hphase ▸ hne, fun w rest' _ hw => by simp [hin] at hw⟩

end Sys2Proof.Machine
end

section
/-! SUPPORT. The invariant under an update that leaves the queue alone: the ring clauses follow the queue's
registers, so only TXPEND against MODE and the phase are left to check (10_state R39). -/

namespace Sys2Proof.Machine

/-- The slots in queue order depend on the queue's registers and the pending pop only. -/
theorem slotIndex_congr {s t : State} (hq : t.queueRegs = s.queueRegs) (hp : t.popPending = s.popPending)
    (k : Nat) : t.slotIndex k = s.slotIndex k := by
  obtain ⟨hcfg, _, hhead, _⟩ := queueRegs_eq.1 hq
  simp only [State.slotIndex, hcfg, hhead, hp]

/-- The invariant goes from `s` to a state with the same queue registers and the same pending pop. -/
theorem State.Inv.of_queueRegs_eq {s t : State} (hinv : s.Inv) (hq : t.queueRegs = s.queueRegs)
    (hp : t.popPending = s.popPending) (hpend : t.txpend = true ↔ t.mode = .tx) (hphase : t.phaseInv) :
    t.Inv := by
  have hidx := slotIndex_congr hq hp
  obtain ⟨hcfg, hocc, hhead, htail, _, hmem⟩ := queueRegs_eq.1 hq
  obtain ⟨config, occ_le, head_lt, tail_lt, ring, lens, _, memory, memory_inside, _⟩ := hinv
  refine ⟨?_, ?_, ?_, ?_, ?_, ?_, hpend, ?_, ?_, hphase⟩
  all_goals simpa only [hcfg, hocc, hhead, htail, hmem, hidx, State.slotLen]

/-- No pop is pending outside c4 of a RECEIVE. -/
theorem popPending_eq_zero {s : State} (h : ∀ len, s.phase ≠ .recvC4 len) : s.popPending = 0 := by
  unfold State.popPending
  split
  · exact absurd ‹_› (h _)
  · rfl

/-- An operation goes on to its next micro-step with the queue's registers as they were. -/
theorem State.Inv.goesOn {s t : State} (hinv : s.Inv) (hq : t.queueRegs = s.queueRegs)
    (hs : ∀ len, s.phase ≠ .recvC4 len) (ht : ∀ len, t.phase ≠ .recvC4 len)
    (hpend : t.txpend = true ↔ t.mode = .tx) (hphase : t.phaseInv) : t.Inv :=
  hinv.of_queueRegs_eq hq ((popPending_eq_zero ht).trans (popPending_eq_zero hs).symm) hpend hphase

/-- An operation ends with the queue's registers as they were. -/
theorem State.Inv.ends {s t : State} (hinv : s.Inv) (hq : t.queueRegs = s.queueRegs)
    (hs : ∀ len, s.phase ≠ .recvC4 len) (hidle : t.phase = .idle) (hpend : t.txpend = true ↔ t.mode = .tx) :
    t.Inv := by
  refine hinv.goesOn hq hs (by simp [hidle]) hpend ?_
  rw [State.phaseInv, hidle]
  trivial

/-- No clause of the invariant reads LOST. -/
theorem State.Inv.setLost {s : State} (hinv : s.Inv) (v : Byte) : State.Inv { s with lost := v } :=
  ⟨hinv.config, hinv.occ_le, hinv.head_lt, hinv.tail_lt, hinv.ring, hinv.lens, hinv.pending, hinv.memory,
    hinv.memory_inside, hinv.phase⟩

/-- Nor the inputs. -/
theorem State.Inv.setInputs {s : State} (hinv : s.Inv) (rest : List Input) :
    State.Inv { s with inputs := rest } := hinv.of_queueRegs_eq rfl rfl hinv.pending hinv.phase

/-- Nor the collaborator's answers and the record of calls. -/
theorem AskedOnly.inv {s u : State} (h : AskedOnly s u) (hinv : s.Inv) : u.Inv := by
  rw [h.same]
  exact hinv.of_queueRegs_eq rfl rfl hinv.pending hinv.phase

theorem AskedOnly.txpend {s u : State} (h : AskedOnly s u) : u.txpend = s.txpend :=
  (congrArg State.txpend h.same).trans rfl

theorem afterDrain_inv {s : State} (keep : Bool) (hinv : s.Inv) : (afterDrain keep s).Inv :=
  hinv.of_queueRegs_eq rfl rfl hinv.pending hinv.phase

theorem afterLine_inv {s : State} (hinv : s.Inv) : (afterLine s).Inv :=
  hinv.of_queueRegs_eq rfl rfl hinv.pending hinv.phase

/-- The end of a transmission suits every phase that was possible before it (42_mode_ops R172). -/
theorem phaseInv_txDone {s t : State} (h : s.phaseInv) (ht : t = { s with txpend := false, mode := .rx }) :
    t.phaseInv := by
  have hphase : t.phase = s.phase := ht ▸ rfl
  rw [State.phaseInv] at h ⊢
  rw [hphase]
  cases hp : s.phase <;> rw [hp] at h <;> subst ht
  case idle | availA1 | recvC1 | recvC2 | recvC4 | directU => exact h
  case sendS1 | sendS2 | sendS3 | sendS4 => exact ⟨h.1, rfl, h.2.2⟩

/-- The handler's TX path keeps the invariant (41_irq_handler R154). -/
theorem State.Inv.txDone {s : State} (hinv : s.Inv) : State.Inv { s with txpend := false, mode := .rx } :=
  hinv.of_queueRegs_eq rfl rfl (by simp) (phaseInv_txDone hinv.phase rfl)

/-- The invariant after reset (10_state R38). -/
theorem resetWith_inv {c : Config} (hc : c.wellFormed = true) : (State.resetWith c).Inv where
  config := hc
  occ_le := Nat.zero_le _
  head_lt := (config_bounds hc).1
  tail_lt := (config_bounds hc).1
  ring := by simp [State.slotIndex, State.popPending]
  lens := fun k hk => absurd hk (Nat.not_lt_zero k)
  pending := by simp
  memory := rfl
  memory_inside := rfl
  phase := trivial

/-- Reset of a running machine leaves the queue's registers as a fresh one has them (70_reset R270). -/
theorem hardwareReset_inv {s : State} (hc : s.cfg.wellFormed = true) : (hardwareReset s).Inv :=
  (resetWith_inv hc).ends rfl (by simp) rfl (by simp)

end Sys2Proof.Machine
end

section
/-! SUPPORT. The invariant under the three updates that write the queue: a push, the advance of HEAD at c3
and the decrement of OCC at c4 (10_state R26, 40_queue_ops R120, R127). -/

namespace Sys2Proof.Machine

/-- The slots in queue order are consecutive modulo N. -/
theorem slotIndex_succ (s : State) (k : Nat) : s.slotIndex (k + 1) = (s.slotIndex k + 1) % s.cfg.n := by
  simp only [State.slotIndex, Nat.mod_add_mod, Nat.add_assoc]

theorem nextIndex_toNat {c : Config} (hc : c.wellFormed = true) (i : Byte) :
    (nextIndex c i).toNat = (i.toNat + 1) % c.n := by
  obtain ⟨hpos, hlt, _⟩ := config_bounds hc
  exact toNat_byte ((Nat.mod_lt _ hpos).trans hlt)

theorem nextIndex_lt {c : Config} (hc : c.wellFormed = true) (i : Byte) : (nextIndex c i).toNat < c.n := by
  rw [nextIndex_toNat hc]
  exact Nat.mod_lt _ (config_bounds hc).1

/-- An occupied slot is not the one at TAIL while there is room. -/
theorem State.Inv.slotIndex_ne_tail {s : State} (hinv : s.Inv) (hroom : s.occ.toNat < s.cfg.n) {k : Nat}
    (hk : k < s.occ.toNat) : s.slotIndex k ≠ s.tail.toNat := by
  rw [hinv.ring]
  exact fun h => hk.ne (slotIndex_inj (hk.trans hroom) hroom h)

theorem afterPush_occ_toNat {s : State} (hinv : s.Inv) (hroom : s.occ.toNat < s.cfg.n) (bytes : List Byte) :
    (afterPush bytes s).occ.toNat = s.occ.toNat + 1 :=
  toNat_byte (by have := (config_bounds hinv.config).2.1; omega)

/-- A push keeps the memory inside SLOTMEM (20_memory R62). -/
theorem afterPush_inside {s : State} (hinv : s.Inv) {bytes : List Byte}
    (hb : bytes.length ≤ s.cfg.maxFrameLen) : (afterPush bytes s).mem.inside s.cfg.memSize = true := by
  have hslot : ∀ j, j < s.cfg.slotSize → s.tail.toNat * s.cfg.slotSize + j < s.cfg.memSize :=
    fun j hj => slot_inside hinv.tail_lt hj
  have hsize : s.cfg.slotSize = s.cfg.maxFrameLen + 1 := rfl
  have hfirst := hslot 0 (by omega)
  have hlast := hslot bytes.length (by omega)
  refine Memory.setBytes_inside (Memory.set_inside hinv.memory_inside hfirst _) bytes ?_
  unfold slotDataAddr
  omega

/-- A push leaves what the phase says of the frame being read: that frame is not the one at TAIL. -/
theorem afterPush_phaseInv {s : State} (hinv : s.Inv) (hroom : s.occ.toNat < s.cfg.n) {bytes : List Byte}
    (hb : bytes.length ≤ s.cfg.maxFrameLen) : (afterPush bytes s).phaseInv := by
  have hocc := afterPush_occ_toNat hinv hroom bytes
  have hlen : 0 < s.occ.toNat → (afterPush bytes s).slotLen (s.slotIndex 0) = s.slotLen (s.slotIndex 0) :=
    fun h => afterPush_slotLen_other hinv.memory hb (hinv.slotIndex_ne_tail hroom h)
  have h := hinv.phase
  rw [State.phaseInv] at h ⊢
  rw [show (afterPush bytes s).phase = s.phase from rfl]
  cases hp : s.phase <;> rw [hp] at h
  case idle | availA1 | directU | sendS1 | sendS2 | sendS3 | sendS4 => exact h
  case recvC1 => exact ⟨h.1, by omega⟩
  case recvC2 len i =>
    obtain ⟨hbuf, hpos, hl, hi⟩ := h
    rw [slotIndex_zero (popPending_eq_zero (by simp [hp])) hinv.head_lt] at hlen
    exact ⟨hbuf, by omega, hl.trans (hlen hpos).symm, hi⟩
  case recvC4 len =>
    obtain ⟨hbuf, hpos, hl⟩ := h
    exact ⟨hbuf, by omega, hl.trans (hlen hpos).symm⟩

/-- A push into a queue with room keeps the invariant. -/
theorem afterPush_inv {s : State} (hinv : s.Inv) (hroom : s.occ.toNat < s.cfg.n) {bytes : List Byte}
    (hb : bytes.length ≤ s.cfg.maxFrameLen) : (afterPush bytes s).Inv where
  config := hinv.config
  occ_le := by
    rw [afterPush_occ_toNat hinv hroom]
    exact hroom
  head_lt := hinv.head_lt
  tail_lt := nextIndex_lt hinv.config _
  ring := by
    calc (nextIndex s.cfg s.tail).toNat
      _ = (s.slotIndex s.occ.toNat + 1) % s.cfg.n := by rw [nextIndex_toNat hinv.config, hinv.ring]
      _ = s.slotIndex (s.occ.toNat + 1) := (slotIndex_succ s _).symm
      _ = s.slotIndex (afterPush bytes s).occ.toNat := by rw [afterPush_occ_toNat hinv hroom]
  lens := by
    intro k hk
    rw [afterPush_occ_toNat hinv hroom] at hk
    change ((afterPush bytes s).slotLen (s.slotIndex k)).toNat ≤ s.cfg.maxFrameLen
    obtain hold | rfl := Nat.lt_succ_iff_lt_or_eq.1 hk
    · rw [afterPush_slotLen_other hinv.memory hb (hinv.slotIndex_ne_tail hroom hold)]
      exact hinv.lens k hold
    · have := config_bounds hinv.config
      rw [← hinv.ring, afterPush_slotLen_tail hinv.memory, lenByte, toNat_byte (by omega)]
      exact hb
  pending := hinv.pending
  memory := Memory.setBytes_wf (Memory.set_wf hinv.memory _ _) _ _
  memory_inside := afterPush_inside hinv hb
  phase := afterPush_phaseInv hinv hroom hb

/-- c3: HEAD advances and a pop is pending, so the queue order stays (40_queue_ops R127). -/
theorem slotIndex_advanceHead {s : State} (hinv : s.Inv) (hp : s.popPending = 0) (len : Byte) (k : Nat) :
    State.slotIndex { s with head := nextIndex s.cfg s.head, phase := .recvC4 len } k = s.slotIndex k := by
  have hlt := hinv.head_lt
  have hpending : State.popPending { s with head := nextIndex s.cfg s.head, phase := .recvC4 len } = 1 := rfl
  simp only [State.slotIndex, hp, hpending, nextIndex_toNat hinv.config]
  obtain hin | hwrap : s.head.toNat + 1 < s.cfg.n ∨ s.head.toNat + 1 = s.cfg.n := by omega
  · rw [Nat.mod_eq_of_lt hin]
    congr 1
    omega
  · rw [hwrap, Nat.mod_self, ← Nat.add_mod_right]
    congr 1
    omega

/-- c3 keeps the invariant. -/
theorem State.Inv.advanceHead {s : State} {len : Byte} {i : Nat} (hinv : s.Inv)
    (hp : s.phase = .recvC2 len i) :
    State.Inv { s with head := nextIndex s.cfg s.head, phase := .recvC4 len } := by
  have hpop : s.popPending = 0 := popPending_eq_zero (by simp [hp])
  have hidx := slotIndex_advanceHead hinv hpop len
  have hphase := hinv.phase
  rw [State.phaseInv, hp] at hphase
  obtain ⟨hbuf, hpos, hlen, _⟩ := hphase
  refine ⟨hinv.config, hinv.occ_le, nextIndex_lt hinv.config _, hinv.tail_lt, ?_, ?_, hinv.pending,
    hinv.memory, hinv.memory_inside, hbuf, hpos, ?_⟩
  · rw [hidx]
    exact hinv.ring
  · intro k hk
    rw [hidx]
    exact hinv.lens k hk
  · rw [hidx, slotIndex_zero hpop hinv.head_lt]
    exact hlen

/-- c4: the oldest frame leaves the queue order (40_queue_ops R127). -/
theorem slotIndex_dropOldest {s : State} {len : Byte} (hinv : s.Inv) (hp : s.phase = .recvC4 len) (o : Byte)
    (r : List Rsp) (k : Nat) :
    State.slotIndex { s with occ := o, phase := .idle, rsp := r } k = s.slotIndex (k + 1) := by
  have hpos := (config_bounds hinv.config).1
  simp only [State.slotIndex, State.popPending, hp]
  congr 1
  omega

/-- c4 keeps the invariant. -/
theorem State.Inv.dropOldest {s : State} {len : Byte} (hinv : s.Inv) (hp : s.phase = .recvC4 len)
    (r : List Rsp) :
    State.Inv { s with occ := BitVec.ofNat 8 (s.occ.toNat - 1), phase := .idle, rsp := r } := by
  have hphase := hinv.phase
  rw [State.phaseInv, hp] at hphase
  obtain ⟨_, hpos, _⟩ := hphase
  have hocc : (BitVec.ofNat 8 (s.occ.toNat - 1)).toNat = s.occ.toNat - 1 := toNat_byte (by omega)
  have hidx := slotIndex_dropOldest hinv hp (BitVec.ofNat 8 (s.occ.toNat - 1)) r
  refine ⟨hinv.config, ?_, hinv.head_lt, hinv.tail_lt, ?_, ?_, hinv.pending, hinv.memory,
    hinv.memory_inside, trivial⟩
  · have := hinv.occ_le
    simp only [hocc]
    omega
  · rw [hidx, hocc, Nat.sub_add_cancel hpos]
    exact hinv.ring
  · intro k hk
    rw [hidx]
    exact hinv.lens (k + 1) (by simp only [hocc] at hk; omega)

end Sys2Proof.Machine
end

section
/-! SUPPORT. The invariant under every move: the handler's invocation, the poll, each micro-step of MAIN
(10_state R39). -/

namespace Sys2Proof.Machine

/-- A handler invocation keeps the invariant, whatever phase it interrupts. -/
theorem takeInterrupt_inv {f : Bool} {s t : State} (hinv : s.Inv) (h : takeInterrupt f s = .next t) :
    t.Inv := by
  obtain ⟨_, _, rfl⟩ | ⟨_, _, hroom, _, rfl⟩ | ⟨_, _, _, rfl⟩ | ⟨_, rfl⟩ := takeInterrupt_next h
  · exact (AskedOnly.record s (by simp)).inv hinv
  · exact afterPush_inv (afterDrain_inv true hinv) hroom (framePayload_le s)
  · exact (afterDrain_inv false hinv).setLost _
  · exact hinv.txDone

/-- So does a poll. -/
theorem pollService_inv {s t : State} (hinv : s.Inv) (h : pollService s = .next t) : t.Inv := by
  obtain ⟨_, rfl⟩ | ⟨_, _, rfl⟩ | ⟨_, _, _, hint⟩ | ⟨_, _, _, rfl⟩ := pollService_next h
  · exact hinv
  · exact afterLine_inv hinv
  · exact takeInterrupt_inv ((AskedOnly.dropBool _).inv (afterLine_inv hinv)) hint
  · exact (afterLine_inv hinv).txDone

/-- TXPEND = 1 exactly when MODE = TX, after POWERUP too (42_mode_ops R176). -/
theorem pending_powerUp {s : State} (hinv : s.Inv) :
    s.txpend = true ↔ (if s.mode.active then s.mode else .rx) = .tx := by
  rw [hinv.pending]
  cases s.mode <;> simp [Mode.active]

/-- LEN of a delivered frame is the number of bytes taken (40_queue_ops R128). -/
theorem lenByte_framePayload {s : State} (hc : s.cfg.wellFormed = true) :
    (lenByte s.framePayload).toNat = s.framePayload.length :=
  toNat_byte (by have := config_bounds hc; have := framePayload_le s; omega)

/-- What s3 leaves for s4: a SEND whose transmission is complete stands in MODE = RX (42_mode_ops R172). -/
theorem mode_rx_of_txpend {s : State} (hinv : s.Inv) (hact : s.mode.active = true)
    (hpend : s.txpend = false) : s.mode = .rx := by
  have htx : s.mode ≠ .tx := fun hm => by simp [hinv.pending.2 hm] at hpend
  cases hm : s.mode <;> simp_all [Mode.active]

/-- Every move keeps the invariant. -/
theorem Move.inv {i : Instr} {s t : State} (hinv : s.Inv) (m : Move s t i) : t.Inv := by
  have hphase := hinv.phase
  unfold State.phaseInv at hphase
  cases m
  case irq hint => exact takeInterrupt_inv hinv hint
  case hold hwait =>
    obtain ⟨_, ht⟩ | ⟨_, hpoll⟩ := hwait
    · exact ht ▸ hinv
    · exact pollService_inv hinv hpoll
  case poll u hp hbuf hpolled hpoll ht =>
    subst ht
    have hu := pollService_inv hinv hpoll
    obtain ⟨hcfg, _, _, _, hph, _⟩ := pollService_frame hpoll
    rw [← hcfg] at hbuf hpolled
    exact hu.goesOn rfl (by simp [hph, hp]) (by simp) hu.pending ⟨hbuf, hpolled⟩
  case c3 hp _ ht => exact ht ▸ hinv.advanceHead hp
  case c4 hp ht => exact ht ▸ hinv.dropOldest hp _
  -- The operations that end.
  case illegal hp ht _ | none hp _ _ ht =>
    subst ht
    exact hinv.ends rfl (by simp [hp]) rfl hinv.pending
  case answer hp hu ht _ =>
    subst ht
    exact hinv.ends hu.queueRegs (by obtain hp | hp := hp <;> simp [hp]) rfl (hu.inv hinv).pending
  case u2 hp hu ht | s4End hp hu ht | initFailed hp _ hu ht | setaddr hp hu ht =>
    subst ht
    exact hinv.ends hu.queueRegs (by simp [hp]) rfl (hu.inv hinv).pending
  case initOk hp _ hu ht =>
    subst ht
    exact hinv.ends hu.queueRegs (by simp [hp]) rfl (by simp)
  case lowPower hp _ _ hu ht him =>
    subst ht
    exact hinv.ends hu.queueRegs (by simp [hp]) rfl
      (by obtain ⟨_, rfl⟩ | ⟨_, rfl⟩ | ⟨_, rfl⟩ := him <;> simp)
  case powerUp hp _ hu ht =>
    subst ht
    exact hinv.ends hu.queueRegs (by simp [hp]) rfl (hu.txpend ▸ pending_powerUp hinv)
  case s2End hp _ _ ht =>
    subst ht
    exact hinv.ends rfl (by simp [hp]) rfl (by simp)
  -- RECEIVE goes on.
  case c0 hp hbuf hpos ht =>
    subst ht
    exact hinv.goesOn rfl (by simp [hp]) (by simp) hinv.pending ⟨hbuf, Nat.pos_of_ne_zero hpos⟩
  case c1 hp ht =>
    subst ht
    rw [hp] at hphase
    obtain ⟨hbuf, hpos⟩ := hphase
    exact hinv.goesOn rfl (by simp [hp]) (by simp) hinv.pending ⟨hbuf, hpos, rfl, Nat.zero_le _⟩
  case c2 hp hi ht =>
    subst ht
    rw [hp] at hphase
    obtain ⟨hbuf, hpos, hlen, _⟩ := hphase
    exact hinv.goesOn rfl (by simp [hp]) (by simp) hinv.pending ⟨hbuf, hpos, hlen, hi⟩
  case u0 hp hbuf ht =>
    subst ht
    have hlen := lenByte_framePayload hinv.config
    exact hinv.goesOn rfl (by simp [hp]) (by simp) hinv.pending
      ⟨hbuf, hlen.ge, hlen.trans_le (framePayload_le s)⟩
  case u1 hp ht =>
    subst ht
    rw [hp] at hphase
    obtain ⟨hbuf, hrest, hlen⟩ := hphase
    exact hinv.goesOn rfl (by simp [hp]) (by simp) hinv.pending ⟨hbuf, Nat.le_of_succ_le hrest, hlen⟩
  -- SEND goes on.
  case s0 hp hready hact hlen ht =>
    subst ht
    exact hinv.goesOn rfl (by simp [hp]) (by simp) hinv.pending ⟨hready, hact, hlen⟩
  case s1 hp hbytes ht =>
    subst ht
    rw [hp] at hphase
    obtain ⟨hready, hact, hlen⟩ := hphase
    exact hinv.goesOn rfl (by simp [hp]) (by simp) hinv.pending
      ⟨hready, hact, hlen, List.length_take_of_le hbytes, Nat.zero_le _⟩
  case s2 hp hack _ ht =>
    subst ht
    rw [hp] at hphase
    obtain ⟨hready, _, hlen, hdata, ha⟩ := hphase
    exact hinv.goesOn rfl (by simp [hp]) (by simp) (by simp) ⟨hready, rfl, hlen, hdata, ha, hack⟩
  case s3 hp hdone ht =>
    subst ht
    rw [hp] at hphase
    obtain ⟨hready, hact, hrest⟩ := hphase
    have hrx := mode_rx_of_txpend hinv hact hdone
    exact hinv.goesOn rfl (by simp [hp]) (by simp) hinv.pending ⟨hready, hrx, hrest⟩
  case s4Again hp hmore hu ht =>
    subst ht
    rw [hp] at hphase
    obtain ⟨hready, hrx, hlen, hdata, _, _⟩ := hphase
    rw [hu.same]
    exact hinv.goesOn rfl (by simp [hp]) (by simp) hinv.pending
      ⟨hready, by simp [hrx, Mode.active], hlen, hdata, hmore⟩

/-- Every instruction keeps the invariant. -/
theorem exec_inv {i : Instr} {s t : State} (hinv : s.Inv) (h : exec i s = .next t) : t.Inv :=
  (exec_move h).inv hinv

end Sys2Proof.Machine
end

section
/-! SUPPORT. With READY = 0 the handler is not registered: no poll and no interrupt writes the queue (10_state
R31, R39 I8). -/

namespace Sys2Proof.Machine

/-- With READY = 0 a poll does nothing. -/
theorem pollService_notReady {s t : State} (hr : s.ready = false) (h : pollService s = .next t) : t = s := by
  have hoff : s.handlerInUse = false := by simp [State.handlerInUse, hr]
  rw [pollService_off hoff] at h
  exact (Host.Outcome.next.inj h).symm

/-- With READY = 0 the only moves that write the queue are c3 and c4 of a RECEIVE. -/
theorem exec_notReady_queueRegs {i : Instr} {s t : State} (hr : s.ready = false) (h : exec i s = .next t) :
    t.queueRegs = s.queueRegs ∨
      (s.phase.instr = some .receive ∧
        t.queueRegs = { s.queueRegs with occ := t.occ, head := t.head }) := by
  obtain hq | ⟨_, _, hp, hq⟩ | ⟨_, hp, hq⟩ | ⟨u, hpoll, hq⟩ | ⟨_, hen, _⟩ := (exec_move h).queue_cases
  · exact .inl hq
  · exact .inr ⟨by rw [hp, Phase.instr], by simp_all [State.queueRegs]⟩
  · exact .inr ⟨by rw [hp, Phase.instr], by simp_all [State.queueRegs]⟩
  · exact .inl (pollService_notReady hr hpoll ▸ hq)
  · exact absurd (irqEnabled_iff.1 hen).2.2.1 (by simp [hr])

end Sys2Proof.Machine
end

section
/-! The statements of the family 10_state. -/

namespace Sys2Proof.Machine

/-- Settles O14: an empty ring, an empty memory, MODE = RX with nothing pending, no operation in progress. -/
theorem resetMeetsInvariant : Obligations.ResetMeetsInvariant := fun _ hc => resetWith_inv hc

/-- Settles O51, by cases on where the step comes from; each move of `exec` keeps the invariant. -/
theorem invariantKept : Obligations.InvariantKept := by
  intro s t hinv h
  cases step_from h with
  | reset rest _ ht => exact ht ▸ hardwareReset_inv hinv.config
  | waits rest _ _ ht => exact ht ▸ hinv.setInputs rest
  | reserved _ _ _ _ hp _ ht => exact ht ▸ hinv.ends rfl (by simp [hp]) rfl hinv.pending
  | goesOn _ rest _ _ _ hx => exact exec_inv (hinv.setInputs rest) hx
  | accepts _ _ rest _ _ _ hx => exact exec_inv (hinv.setInputs rest) hx
  | interrupt _ _ rest _ _ hx => exact exec_inv (hinv.setInputs rest) hx

/-- Settles O56: with READY = 0 no handler invocation occurs, so only a RECEIVE writes the queue. -/
theorem notReadyFreezesQueue : Obligations.NotReadyFreezesQueue := by
  intro s t hr hreset h
  have hq : t.queueRegs = s.queueRegs ∨ (s.phase.instr = some .receive ∧
      t.queueRegs = { s.queueRegs with occ := t.occ, head := t.head }) := by
    obtain ⟨_, hin, _⟩ | hq | ⟨_, rest, hx⟩ := step_queue_cases h
    · exact absurd (by simp [State.resetNext, hin]) hreset
    · exact .inl hq
    · exact exec_notReady_queueRegs (s := { s with inputs := rest }) hr hx
  obtain hsame | ⟨hp, hpop⟩ := hq
  · obtain ⟨_, hocc, hhead, htail, hlost, hmem⟩ := queueRegs_eq.1 hsame
    exact ⟨htail, hlost, hmem, .inl ⟨hocc, hhead⟩⟩
  · exact ⟨congrArg QueueRegs.tail hpop, congrArg QueueRegs.lost hpop, congrArg QueueRegs.mem hpop, .inr hp⟩

end Sys2Proof.Machine
end

section
/-! SUPPORT. The occupied slots: no instruction changes a frame in one of them, and a pushed frame becomes the
newest of the queue (20_memory R69, 40_queue_ops R120). -/

namespace Sys2Proof.Machine

/-- The frame in a slot depends on the parameters and the memory only. -/
theorem slotFrame_congr {s t : State} (hcfg : t.cfg = s.cfg) (hmem : t.mem = s.mem) (i : Nat) :
    t.slotFrame i = s.slotFrame i := by
  have hlen : t.slotLen i = s.slotLen i := by simp only [State.slotLen, hcfg, hmem]
  have hbyte : t.slotByte i = s.slotByte i := funext fun j => by simp only [State.slotByte, hcfg, hmem]
  rw [State.slotFrame, State.slotFrame, hlen, hbyte]

/-- A push leaves the frames in the occupied slots as they were. -/
theorem afterPush_slotFrame_occupied {s : State} (hinv : s.Inv) (hroom : s.occ.toNat < s.cfg.n)
    {bytes : List Byte} (hb : bytes.length ≤ s.cfg.maxFrameLen) {k : Nat} (hk : k < s.occ.toNat) :
    (afterPush bytes s).slotFrame (s.slotIndex k) = s.slotFrame (s.slotIndex k) :=
  afterPush_slotFrame_other hinv.memory hb (hinv.slotIndex_ne_tail hroom hk) (hinv.lens k hk)

/-- A push appends its frame to the queue. -/
theorem afterPush_queue {s : State} (hinv : s.Inv) (hroom : s.occ.toNat < s.cfg.n) {bytes : List Byte}
    (hb : bytes.length ≤ s.cfg.maxFrameLen) : (afterPush bytes s).queue = s.queue ++ [bytes] := by
  have hnewest : (afterPush bytes s).slotFrame (s.slotIndex s.occ.toNat) = bytes := by
    have := config_bounds hinv.config
    rw [← hinv.ring]
    exact afterPush_slotFrame_tail hinv.memory (by omega)
  have hold : ∀ k ∈ List.range s.occ.toNat,
      (afterPush bytes s).slotFrame (s.slotIndex k) = s.slotFrame (s.slotIndex k) :=
    fun k hk => afterPush_slotFrame_occupied hinv hroom hb (List.mem_range.1 hk)
  calc (afterPush bytes s).queue
    _ = (List.range (s.occ.toNat + 1)).map fun k => (afterPush bytes s).slotFrame (s.slotIndex k) := by
      rw [State.queue, afterPush_occ_toNat hinv hroom]
      rfl
    _ = s.queue ++ [bytes] := by
      rw [List.range_succ, List.map_append, List.map_congr_left hold, List.map_singleton, hnewest]
      rfl

/-- A handler invocation leaves the frames in the occupied slots as they were. -/
theorem takeInterrupt_slotFrame_occupied {f : Bool} {s t : State} (hinv : s.Inv)
    (h : takeInterrupt f s = .next t) {k : Nat} (hk : k < s.occ.toNat) :
    t.slotFrame (s.slotIndex k) = s.slotFrame (s.slotIndex k) := by
  obtain ⟨_, _, rfl⟩ | ⟨_, _, hroom, _, rfl⟩ | ⟨_, _, _, rfl⟩ | ⟨_, rfl⟩ := takeInterrupt_next h
  · rfl
  · exact afterPush_slotFrame_occupied (afterDrain_inv true hinv) hroom (framePayload_le s) hk
  · rfl
  · rfl

/-- So does a poll. -/
theorem pollService_slotFrame_occupied {s t : State} (hinv : s.Inv) (h : pollService s = .next t) {k : Nat}
    (hk : k < s.occ.toNat) : t.slotFrame (s.slotIndex k) = s.slotFrame (s.slotIndex k) := by
  obtain ⟨_, rfl⟩ | ⟨_, _, rfl⟩ | ⟨_, _, _, hint⟩ | ⟨_, _, _, rfl⟩ := pollService_next h
  · rfl
  · rfl
  · exact takeInterrupt_slotFrame_occupied ((AskedOnly.dropBool _).inv (afterLine_inv hinv)) hint hk
  · rfl

/-- While a RECEIVE stands before or among c2 the frame it reads is counted in OCC. -/
theorem State.Inv.occ_pos_of_reading {s : State} (hinv : s.Inv)
    (hp : s.phase = .recvC1 ∨ ∃ len i, s.phase = .recvC2 len i) : 0 < s.occ.toNat := by
  have h := hinv.phase
  rw [State.phaseInv] at h
  obtain hp | ⟨len, i, hp⟩ := hp <;> rw [hp] at h
  · obtain ⟨_, hpos⟩ := h
    exact hpos
  · obtain ⟨_, hpos, _⟩ := h
    exact hpos

/-- Before c4 it still is. -/
theorem State.Inv.occ_pos_of_c4 {len : Byte} {s : State} (hinv : s.Inv) (hp : s.phase = .recvC4 len) :
    0 < s.occ.toNat := by
  have h := hinv.phase
  rw [State.phaseInv, hp] at h
  obtain ⟨_, hpos, _⟩ := h
  exact hpos

/-- No instruction changes the frame in an occupied slot. -/
theorem exec_slotFrame_occupied {i : Instr} {s t : State} (hinv : s.Inv) (h : exec i s = .next t) {k : Nat}
    (hk : k < s.occ.toNat) : t.slotFrame (s.slotIndex k) = s.slotFrame (s.slotIndex k) := by
  obtain hq | ⟨_, _, _, hq⟩ | ⟨_, _, hq⟩ | ⟨u, hpoll, hq⟩ | ⟨_, _, hint⟩ := (exec_move h).queue_cases
  · exact slotFrame_congr (congrArg QueueRegs.cfg hq) (congrArg QueueRegs.mem hq) _
  · exact slotFrame_congr (congrArg QueueRegs.cfg hq) (congrArg QueueRegs.mem hq) _
  · exact slotFrame_congr (congrArg QueueRegs.cfg hq) (congrArg QueueRegs.mem hq) _
  · exact (slotFrame_congr (congrArg QueueRegs.cfg hq) (congrArg QueueRegs.mem hq) _).trans
      (pollService_slotFrame_occupied hinv hpoll hk)
  · exact takeInterrupt_slotFrame_occupied hinv hint hk

end Sys2Proof.Machine
end

section
/-! SUPPORT. c4 of a RECEIVE as a named update, and its order with a push (40_queue_ops R127, 20_memory
R70). -/

namespace Sys2Proof.Machine

/-- The state after c4: one frame fewer, the answer given. -/
def afterPop (len : Byte) (s : State) : State :=
  { s with
    occ := BitVec.ofNat 8 (s.occ.toNat - 1), phase := .idle
    rsp := s.rsp ++ [⟨.done, byteResult len⟩] }

theorem exec_receive_c4 {len : Byte} {s : State} (hp : s.phase = .recvC4 len) :
    exec .receive s = .next (afterPop len s) := by
  change execReceive s = _
  rw [execReceive, onPort_own (by rw [hp, Phase.instr]), hp]
  rfl

theorem afterPop_occ_toNat (len : Byte) (s : State) : (afterPop len s).occ.toNat = s.occ.toNat - 1 :=
  toNat_byte (by omega)

/-- A push into a queue with room, then c4: OCC is as before. -/
theorem afterPop_afterPush_occ {s : State} (hinv : s.Inv) (hroom : s.occ.toNat < s.cfg.n) (len : Byte)
    (bytes : List Byte) : (afterPop len (afterPush bytes s)).occ = s.occ := by
  apply BitVec.eq_of_toNat_eq
  rw [afterPop_occ_toNat, afterPush_occ_toNat hinv hroom, Nat.add_sub_cancel]

/-- c4, then a push: OCC is as before, if there was a frame to pop. -/
theorem afterPush_afterPop_occ {s : State} (hpos : 0 < s.occ.toNat) (len : Byte) (bytes : List Byte) :
    (afterPush bytes (afterPop len s)).occ = s.occ := by
  change BitVec.ofNat 8 ((afterPop len s).occ.toNat + 1) = s.occ
  rw [afterPop_occ_toNat, Nat.sub_add_cancel hpos, BitVec.ofNat_toNat, BitVec.setWidth_eq]

/-- OCC is the only register that both updates write, so they commute when there is a frame to pop and room for
the pushed one (20_memory R70). -/
theorem afterPush_afterPop {s : State} (hinv : s.Inv) (hpos : 0 < s.occ.toNat) (hroom : s.occ.toNat < s.cfg.n)
    (len : Byte) (bytes : List Byte) :
    afterPush bytes (afterPop len s) = afterPop len (afterPush bytes s) := by
  have hocc : (afterPush bytes (afterPop len s)).occ = (afterPop len (afterPush bytes s)).occ :=
    (afterPush_afterPop_occ hpos len bytes).trans (afterPop_afterPush_occ hinv hroom len bytes).symm
  calc afterPush bytes (afterPop len s)
    _ = { afterPop len (afterPush bytes s) with occ := (afterPush bytes (afterPop len s)).occ } := rfl
    _ = afterPop len (afterPush bytes s) := by rw [hocc]

end Sys2Proof.Machine
end

section
/-! SUPPORT. The interrupt as an event, and MAIN on a line that is not polled: it never produces (20_memory
R72, 41_irq_handler R150). -/

namespace Sys2Proof.Machine

theorem exec_irq_enabled {f : Bool} {s : State} (h : s.irqEnabled = true) :
    exec (.irq f) s = takeInterrupt f s := if_pos h

/-- `LOST <- min(LOST + 1, 255)` as a number (41_irq_handler R153). -/
theorem lostSucc_toNat (lost : Byte) : (lostSucc lost).toNat = min 255 (lost.toNat + 1) := by
  rw [lostSucc, toNat_byte (by unfold lostMax; omega), Nat.min_comm, lostMax]

/-- TAIL, LOST and the slots are as they were and OCC did not rise: nothing was produced. -/
def ProducesNothing (s t : State) : Prop :=
  t.tail = s.tail ∧ t.lost = s.lost ∧ t.mem = s.mem ∧ t.occ.toNat ≤ s.occ.toNat

theorem producesNothing_of_queueRegs_eq {s t : State} (hq : t.queueRegs = s.queueRegs) :
    ProducesNothing s t := by
  obtain ⟨_, hocc, _, htail, hlost, hmem⟩ := queueRegs_eq.1 hq
  exact ⟨htail, hlost, hmem, (congrArg BitVec.toNat hocc).le⟩

/-- On a line that is not polled no micro-step of MAIN runs the handler, so none produces. -/
theorem Move.main_producesNothing {i : Instr} {s t : State} (hi : isMain i = true)
    (hpolled : s.cfg.irqPolled = false) (m : Move s t i) : ProducesNothing s t := by
  cases m
  case irq => cases hi
  case poll hline _ _ => simp [hpolled] at hline
  case hold hwait =>
    obtain ⟨_, ht⟩ | ⟨hline, _⟩ := hwait
    · exact producesNothing_of_queueRegs_eq (ht ▸ rfl)
    · simp [hpolled] at hline
  case c3 ht => exact ht ▸ ⟨rfl, rfl, rfl, le_rfl⟩
  case c4 len _ ht => exact ht ▸ ⟨rfl, rfl, rfl, (afterPop_occ_toNat len s).trans_le (Nat.sub_le _ _)⟩
  case answer | u2 | initOk | initFailed | s4End | s4Again | lowPower | powerUp | setaddr =>
    subst_vars
    have hu : AskedOnly s _ := ‹_›
    exact producesNothing_of_queueRegs_eq hu.queueRegs
  case illegal | none | c0 | c1 | c2 | u0 | u1 | s0 | s1 | s2 | s2End | s3 =>
    subst_vars
    exact producesNothing_of_queueRegs_eq rfl

end Sys2Proof.Machine
end

section
/-! The statements of the family 20_memory. -/

namespace Sys2Proof.Machine

/-- Settles O53: while a RECEIVE stands before or among c2, HEAD is the oldest occupied slot, and no
instruction changes the frame in an occupied slot. -/
theorem slotBeingReadIsStable : Obligations.SlotBeingReadIsStable := by
  intro s t hinv hp hr h
  have hpop : s.popPending = 0 :=
    popPending_eq_zero (by obtain hp | ⟨_, _, hp⟩ := hp <;> simp [hp])
  have hpos := hinv.occ_pos_of_reading hp
  rw [← slotIndex_zero hpop hinv.head_lt]
  obtain ⟨_, hin, _⟩ | hq | ⟨_, rest, hx⟩ := step_queue_cases h
  · exact absurd (by simp [State.resetNext, hin]) hr
  · exact slotFrame_congr (congrArg QueueRegs.cfg hq) (congrArg QueueRegs.mem hq) _
  · exact (exec_slotFrame_occupied (hinv.setInputs rest) hx hpos :)

/-- Settles O55, from what each micro-step of MAIN does to the queue's registers. -/
theorem mainNeverProduces : Obligations.MainNeverProduces := by
  intro i s t hi hpolled h
  exact (exec_move h).main_producesNothing hi hpolled

/-- Settles O58: both orders end in c4's update of the pushed state. -/
theorem occupancyUpdatesCommute : Obligations.OccupancyUpdatesCommute := by
  intro s len hinv hp hpolled hready hm hroom
  have hpos := hinv.occ_pos_of_c4 hp
  have hen : s.irqEnabled = true :=
    irqEnabled_iff.2 ⟨hpolled, phaseInv_buffered hinv.phase (.inr ⟨len, hp⟩), hready, by rw [hm]; rfl⟩
  have hdrained := afterDrain_inv true hinv
  have hpush := takeInterrupt_store hm hroom hinv.tail_lt
  have hpopPush : takeInterrupt true (afterPop len s) =
      .next (afterPop len (afterPush s.framePayload (afterDrain true s))) := by
    rw [← afterPush_afterPop hdrained hpos hroom]
    refine takeInterrupt_store (s := afterPop len s) hm ?_ hinv.tail_lt
    rw [afterPop_occ_toNat]
    exact (Nat.sub_le _ _).trans_lt hroom
  exact ⟨_, _, _, (exec_irq_enabled hen).trans hpush, exec_receive_c4 hp, exec_receive_c4 hp,
    (exec_irq_enabled (s := afterPop len s) hen).trans hpopPush, afterPop_afterPush_occ hdrained hroom _ _⟩

/-- Settles O59: before c4 OCC = N and the handler discards; c4 makes room, and the handler stores. -/
theorem fullQueueLossWindow : Obligations.FullQueueLossWindow := by
  intro s hinv _ hbuf hpolled hready hm hfull
  have hen : s.irqEnabled = true := irqEnabled_iff.2 ⟨hpolled, hbuf, hready, by rw [hm]; rfl⟩
  refine ⟨⟨_, (exec_irq_enabled hen).trans (takeInterrupt_discard hm hfull.ge), rfl, rfl, rfl,
    lostSucc_toNat s.lost⟩, fun len hp => ?_⟩
  have hpos := hinv.occ_pos_of_c4 hp
  have hinv' : (afterPop len s).Inv := hinv.dropOldest hp _
  have hroom : (afterPop len s).occ.toNat < s.cfg.n := by
    rw [afterPop_occ_toNat]
    omega
  have hocc : (afterPush s.framePayload (afterDrain true (afterPop len s))).occ = s.occ :=
    afterPush_afterPop_occ (s := afterDrain true s) hpos len s.framePayload
  exact ⟨_, _, exec_receive_c4 hp,
    (exec_irq_enabled (s := afterPop len s) hen).trans (takeInterrupt_store hm hroom hinv.tail_lt), hocc, rfl,
    afterPush_queue (afterDrain_inv true hinv') hroom (framePayload_le s)⟩

/-- Settles O8: an event byte is taken in every phase, and its decoding is given. -/
theorem stepTakesDecodedEvent : Obligations.StepTakesDecodedEvent := by
  intro s rest e i hin hdec
  rw [step, nextStep, hin]
  simp only [takeEvent, hdec]

end Sys2Proof.Machine
end

section
/-! SUPPORT. The decoder said once: which words decode to an instruction, in terms of the fields (30_encoding
R90, R94 to R97). -/

namespace Sys2Proof

open Laws.OpcodeByte (rowMatch)

/-- The operands of an instruction are those the word carries (30_encoding R94). -/
def Instr.operandsIn (w : CmdWord) : Instr → Prop
  | .rdcsr v | .setaddr v | .settxlvl v | .settxpct v => v = aField w
  | .send dest len noack => dest = aField w ∧ len = bField w ∧ noack = (cField w).getLsbD 0
  | .available | .receive | .qempty | .qfull | .init | .sleep | .standby | .powerdown | .powerup
  | .getaddr | .gettxlvl | .gettxpct | .getsrssi | .getrrssi | .getssnr | .getrsnr | .sanity | .irq _ => True

/-- A command word decodes to `i` exactly when its OP is the one of `i`'s row and its fields hold the operands
of `i`. -/
theorem decodeCommand_ok_iff {w : CmdWord} {i : Instr} : decodeCommand w = .ok i ↔
    Machine.isMain i = true ∧ opField w = rowMatch i ∧ i.operandsIn w := by
  constructor
  · intro h
    simp only [decodeCommand] at h
    split at h <;> simp only [Except.ok.injEq, reduceCtorEq] at h <;> subst h <;>
      exact ⟨rfl, BitVec.eq_of_toNat_eq ‹_›, by simp [Instr.operandsIn]⟩
  · rintro ⟨hi, hop, hargs⟩
    rw [decodeCommand, hop]
    cases i with
    | irq => cases hi
    | send =>
      obtain ⟨rfl, rfl, rfl⟩ := hargs
      rfl
    | rdcsr | setaddr | settxlvl | settxpct =>
      obtain rfl := hargs
      rfl
    | _ => rfl

/-- Words that agree on the bits of a mask agree on every field that the mask covers. -/
theorem extractLsb'_congr {w w' m : CmdWord} {k n : Nat} (h : w' &&& m = w &&& m)
    (hm : m.extractLsb' k n = BitVec.allOnes n) : w'.extractLsb' k n = w.extractLsb' k n := by
  have hf := congrArg (BitVec.extractLsb' k n) h
  simpa only [BitVec.extractLsb'_and, hm, BitVec.and_allOnes] using hf

/-- Every operation reads OP. -/
theorem usedBits_op (i : Instr) : i.usedBits.extractLsb' 0 8 = BitVec.allOnes 8 := by
  cases i <;> rw [Instr.usedBits] <;> decide

/-- The operands of `i` are read from the bits that `i` uses. -/
theorem operandsIn_congr {w w' : CmdWord} {i : Instr} (h : w' &&& i.usedBits = w &&& i.usedBits)
    (hargs : i.operandsIn w) : i.operandsIn w' := by
  cases i with
  | rdcsr | setaddr | settxlvl | settxpct =>
    rw [Instr.usedBits] at h
    have ha : aField w' = aField w := extractLsb'_congr h (by decide)
    exact hargs.trans ha.symm
  | send =>
    obtain ⟨hdest, hlen, hnoack⟩ := hargs
    rw [Instr.usedBits] at h
    have ha : aField w' = aField w := extractLsb'_congr h (by decide)
    have hb : bField w' = bField w := extractLsb'_congr h (by decide)
    have hflag : w'.extractLsb' 24 1 = w.extractLsb' 24 1 := extractLsb'_congr h (by decide)
    have hc : (cField w').getLsbD 0 = (cField w).getLsbD 0 := by
      simpa [cField] using congrArg (BitVec.getLsbD · 0) hflag
    exact ⟨hdest.trans ha.symm, hlen.trans hb.symm, hnoack.trans hc.symm⟩
  | _ => trivial

end Sys2Proof
end

section
/-! SUPPORT. One equation per case of the step: who moves next, and a command word accepted or reserved
(30_encoding R96, R104; 20_memory R67). -/

namespace Sys2Proof.Machine

theorem mainStep_inProgress {s : State} {i : Instr} (h : s.phase.instr = some i) : mainStep s = exec i s := by
  rw [mainStep, h]

theorem mainStep_idle {s : State} (h : s.phase = .idle) : mainStep s = .next s := by
  rw [mainStep, phase_instr_none.2 h]

theorem step_silent {s : State} (hin : s.inputs = []) : step s = mainStep s := by
  rw [step, nextStep, hin]

theorem step_tick {s : State} {rest : List Input} (hin : s.inputs = .tick :: rest) :
    step s = mainStep { s with inputs := rest } := by
  rw [step, nextStep, hin]

theorem step_command {s : State} {w : CmdWord} {rest : List Input} (hp : s.phase = .idle)
    (hin : s.inputs = .word (.cw w) :: rest) : step s = acceptCommand w { s with inputs := rest } := by
  rw [step, nextStep, hin]
  simp only [hp]

/-- While an operation is in progress a command word waits on the port. -/
theorem step_waitingCommand {s : State} {w : CmdWord} {rest : List Input} (hp : s.phase ≠ .idle)
    (hin : s.inputs = .word (.cw w) :: rest) : step s = mainStep s := by
  rw [step, nextStep, hin]
  cases hph : s.phase
  case idle => exact absurd hph hp
  all_goals rfl

theorem acceptCommand_ok {w : CmdWord} {i : Instr} (h : decode (.cw w) = .ok i) (s : State) :
    acceptCommand w s = exec i s := by
  rw [acceptCommand, h]

theorem acceptCommand_reserved {w : CmdWord} {e : DecodeError} (h : decode (.cw w) = .error e) (s : State) :
    acceptCommand w s = respondIllegal s := by
  rw [acceptCommand, h]

/-- With no operation in progress ILLEGAL appends its response and changes nothing else (30_encoding R92). -/
theorem respondIllegal_idle {s : State} (hp : s.phase = .idle) :
    respondIllegal s = .next { s with rsp := s.rsp ++ [⟨.illegal, 0⟩] } := by
  rw [respondIllegal_eq, ← hp]

/-- No register has a number from 5 on (10_state R33). -/
theorem csrRead_unpopulated {k : Byte} (hk : 5 ≤ k.toNat) (s : State) : csrRead k s = none := by
  unfold csrRead
  split
  case h_6 => rfl
  all_goals omega

/-- RDCSR of such a number is not accepted (40_queue_ops R131). -/
theorem exec_rdcsr_unpopulated {k : Byte} {s : State} (hp : s.phase = .idle) (hk : 5 ≤ k.toNat) :
    exec (.rdcsr k) s = respondIllegal s := by
  change execRdcsr k s = _
  rw [execRdcsr, onPort_idle hp, csrRead_unpopulated hk]

end Sys2Proof.Machine
end

section
/-! SUPPORT. ILLEGAL is answered by one move only, the command not accepted (30_encoding R92, 60_exceptions
R236). -/

namespace Sys2Proof.Machine

/-- A move from idle whose response is ILLEGAL is the command not accepted: nothing else happened. -/
theorem Move.eq_of_illegal {i : Instr} {s t : State} {v : Half} (m : Move s t i) (hp : s.phase = .idle)
    (hr : t.rsp = s.rsp ++ [⟨.illegal, v⟩]) :
    v = 0 ∧ t = { s with rsp := s.rsp ++ [⟨.illegal, 0⟩] } := by
  cases m
  case illegal ht _ =>
    subst ht
    exact ⟨by simpa using hr.symm, by rw [← hp]⟩
  case poll u _ _ _ hu ht =>
    obtain ⟨_, _, _, _, _, _, _, hrsp, _⟩ := pollService_frame hu
    simp [ht, hrsp] at hr
  case irq f hen hint =>
    obtain ⟨_, _, _, _, _, _, _, hrsp, _⟩ := takeInterrupt_frame hint
    simp [hrsp] at hr
  case hold hbusy _ => simp [hp] at hbusy
  case c1 hbusy _ | c4 hbusy _ | u1 hbusy _ => simp [hp] at hbusy
  case c2 hbusy _ _ | c3 hbusy _ _ | u2 hbusy _ _ | s1 hbusy _ _ | s3 hbusy _ _ | s4End hbusy _ _ =>
    simp [hp] at hbusy
  case s2 hbusy _ _ _ | s2End hbusy _ _ _ | s4Again hbusy _ _ _ => simp [hp] at hbusy
  case c0 | u0 | s0 | none | answer | initOk | initFailed | lowPower | powerUp | setaddr =>
    subst_vars
    simp at hr

end Sys2Proof.Machine
end

section
/-! SUPPORT. The response word as a number (30_encoding R91). -/

namespace Sys2Proof.Machine

theorem Rsp.word_toNat (r : Rsp) : r.word.toNat = r.st.code.toNat * 0x10000 + r.rv.toNat := by
  have hrv := r.rv.isLt
  rw [Rsp.word, BitVec.toNat_append, ← Nat.shiftLeft_add_eq_or_of_lt hrv, Nat.shiftLeft_eq]

end Sys2Proof.Machine
end

section
/-! The statements of the family 30_encoding. -/

namespace Sys2Proof.Machine

/-- Settles O1: the word of an instruction carries its opcode and its operands; the two event bytes decode by
evaluation. -/
theorem decodeEncodeRoundTrip : Obligations.DecodeEncodeRoundTrip := by
  intro i
  cases i with
  | irq f => cases f <;> rfl
  | send _ _ n =>
    have hflag : n = (if n then 1 else 0 : Byte).getLsbD 0 := by cases n <;> rfl
    exact decodeCommand_ok_iff.2 ⟨rfl, opField_commandWord .., (aField_commandWord ..).symm,
      (bField_commandWord ..).symm, by rwa [cField_commandWord]⟩
  | rdcsr | setaddr | settxlvl | settxpct =>
    exact decodeCommand_ok_iff.2 ⟨rfl, opField_commandWord .., (aField_commandWord ..).symm⟩
  | _ => rfl

/-- Settles O2: OP and the operands lie in the bits that the operation reads. -/
theorem unusedOperandBitsIgnored : Obligations.UnusedOperandBitsIgnored := by
  intro w w' i h hbits
  obtain ⟨hi, hop, hargs⟩ := decodeCommand_ok_iff.1 h
  have hop' : opField w' = opField w := extractLsb'_congr hbits (usedBits_op i)
  exact decodeCommand_ok_iff.2 ⟨hi, hop'.trans hop, operandsIn_congr hbits hargs⟩

/-- Settles O3, by cases on the decoder's table: each of its rows lies outside the four ranges, and its default
case inside one. -/
theorem reservedOpcodesExactly : Obligations.ReservedOpcodesExactly := by
  intro w
  rw [← opField_toNat]
  unfold decodeCommand
  split
  case h_23 =>
    refine ⟨fun _ => ?_, fun _ => ⟨_, rfl⟩⟩
    -- The default case comes with `op = n → False` for each row, which `omega` reads only as `¬ op = n`.
    simp only [imp_false] at *
    omega
  all_goals
    refine ⟨fun ⟨_, h⟩ => (nomatch h), fun _ => ?_⟩
    omega

/-- Settles O4: a reserved opcode does not decode, and the other words are RDCSR of an unpopulated number; both
are answered by the same move, taken with no operation in progress. -/
theorem reservedCommandAnswersIllegal : Obligations.ReservedCommandAnswersIllegal := by
  intro s rest w hp hin hw
  rw [step_command hp hin]
  refine Eq.trans ?_ (respondIllegal_idle (s := { s with inputs := rest }) hp)
  by_cases hres : ∃ e, decodeCommand w = .error e
  · obtain ⟨e, he⟩ := hres
    exact acceptCommand_reserved he _
  · have hrange := mt (reservedOpcodesExactly w).2 hres
    obtain ⟨hop, hk⟩ : w.toNat % 256 = 0x05 ∧ 5 ≤ w.toNat / 256 % 256 := by omega
    rw [← opField_toNat] at hop
    rw [← aField_toNat] at hk
    have hdec : decodeCommand w = .ok (.rdcsr (aField w)) :=
      decodeCommand_ok_iff.2 ⟨rfl, BitVec.eq_of_toNat_eq hop, rfl⟩
    exact (acceptCommand_ok hdec _).trans (exec_rdcsr_unpopulated hp hk)

/-- Settles O11: the command not accepted is the only move that answers ILLEGAL. -/
theorem illegalChangesNothing : Obligations.IllegalChangesNothing := by
  intro i s t v hp h hr
  exact (exec_move h).eq_of_illegal hp hr

/-- Settles O5, by evaluation. -/
theorem decodesSpecWords : Obligations.DecodesSpecWords := by
  refine ⟨?_, ?_, ?_, ?_, ?_, ?_, ?_, ?_, ?_, ?_, ?_, ?_⟩ <;> decide

/-- Settles O6: the mode codes by unfolding, the response words from their value as a number. -/
theorem responseAndModeCodes : Obligations.ResponseAndModeCodes := by
  refine ⟨fun rv => ?_, rfl, rfl, rfl, rfl, rfl⟩
  simp [Rsp.word_toNat, Status.code]

/-- Settles O7: the word is accepted, and its decoding is given. -/
theorem stepAcceptsDecodedCommand : Obligations.StepAcceptsDecodedCommand :=
  fun _ _ _ _ hp hin hdec => (step_command hp hin).trans (acceptCommand_ok hdec _)

/-- Settles O9: silence, a turn of MAIN and a command word that waits are all MAIN's turn. -/
theorem stepContinuesOperation : Obligations.StepContinuesOperation := by
  refine fun s rest => ⟨fun i hi => ?_, fun hp => ?_⟩
  · have hp : s.phase ≠ .idle := fun h => by simp [phase_instr_none.2 h] at hi
    exact ⟨fun hin => (step_silent hin).trans (mainStep_inProgress hi),
      fun hin => (step_tick hin).trans (mainStep_inProgress hi),
      fun _ hin => (step_waitingCommand hp hin).trans (mainStep_inProgress hi)⟩
  · exact ⟨fun hin => (step_silent hin).trans (mainStep_idle hp),
      fun hin => (step_tick hin).trans (mainStep_idle hp)⟩

end Sys2Proof.Machine
end

section
/-! SUPPORT. The abstract queue under every move: the interrupt and the poll of AVAILABLE append the delivered
frame, c4 of a RECEIVE removes the oldest, nothing else changes it (10_state R26, 40_queue_ops R134). -/

namespace Sys2Proof.Machine

/-- The queue depends on its registers and the pending pop only. -/
theorem queue_congr {s t : State} (hq : t.queueRegs = s.queueRegs) (hp : t.popPending = s.popPending) :
    t.queue = s.queue := by
  obtain ⟨hcfg, hocc, _, _, _, hmem⟩ := queueRegs_eq.1 hq
  simp only [State.queue, hocc, slotIndex_congr hq hp, slotFrame_congr hcfg hmem]

/-- The queue's registers as they were, and no pop pending before or after. -/
theorem queue_eq_of_noPop {s t : State} (hq : t.queueRegs = s.queueRegs) (hs : ∀ len, s.phase ≠ .recvC4 len)
    (ht : ∀ len, t.phase ≠ .recvC4 len) : t.queue = s.queue :=
  queue_congr hq ((popPending_eq_zero ht).trans (popPending_eq_zero hs).symm)

/-- c3: HEAD advances and a pop is pending, so the queue stays. -/
theorem queue_advanceHead {s : State} (hinv : s.Inv) (hp : s.popPending = 0) (len : Byte) :
    State.queue { s with head := nextIndex s.cfg s.head, phase := .recvC4 len } = s.queue := by
  simp only [State.queue, slotIndex_advanceHead hinv hp]
  rfl

/-- A queue that is not empty begins with the frame in the oldest occupied slot. -/
theorem queue_eq_cons {s : State} (hpos : 0 < s.occ.toNat) :
    s.queue = s.slotFrame (s.slotIndex 0) ::
      (List.range (s.occ.toNat - 1)).map fun k => s.slotFrame (s.slotIndex (k + 1)) := by
  obtain ⟨n, hn⟩ := Nat.exists_eq_succ_of_ne_zero hpos.ne'
  rw [State.queue, hn, List.range_succ_eq_map, List.map_cons, List.map_map]
  rfl

/-- The frame in a slot has LEN bytes. -/
theorem slotFrame_length (s : State) (i : Nat) : (s.slotFrame i).length = (s.slotLen i).toNat := by
  simp [State.slotFrame]

/-- c4 removes the oldest frame. -/
theorem queue_eq_cons_afterPop {len : Byte} {s : State} (hinv : s.Inv) (hp : s.phase = .recvC4 len) :
    s.queue = s.slotFrame (s.slotIndex 0) :: (afterPop len s).queue := by
  rw [queue_eq_cons (hinv.occ_pos_of_c4 hp), State.queue, afterPop_occ_toNat]
  simp only [afterPop, slotIndex_dropOldest hinv hp]
  rfl

/-- The LEN latched by a RECEIVE is the length of the oldest frame. -/
theorem State.Inv.oldest_length_of_c4 {len : Byte} {s : State} (hinv : s.Inv) (hp : s.phase = .recvC4 len) :
    (s.slotFrame (s.slotIndex 0)).length = len.toNat := by
  have h := hinv.phase
  rw [State.phaseInv, hp] at h
  obtain ⟨_, _, hlen⟩ := h
  rw [slotFrame_length, hlen]

/-- `t` is `s` with one frame drained with `keep`, capped, and appended to the queue. -/
def Appends (s t : State) (f : List Byte) : Prop :=
  t.queue = s.queue ++ [f] ∧ f.length ≤ s.cfg.maxFrameLen ∧
    readCount true t.calls = readCount true s.calls + 1

/-- `t` is `s` after c4 of a RECEIVE: the oldest frame is gone and its length is answered. -/
def Pops (s t : State) : Prop :=
  ∃ f len, s.queue = f :: t.queue ∧ s.phase = .recvC4 len ∧ f.length = len.toNat ∧
    t.rsp = s.rsp ++ [⟨.done, BitVec.ofNat 16 len.toNat⟩]

/-- A byte answered is its value, zero-extended (30_encoding R98). -/
theorem byteResult_eq (b : Byte) : byteResult b = BitVec.ofNat 16 b.toNat := (BitVec.ofNat_toNat 16 b).symm

theorem afterPop_pops {len : Byte} {s : State} (hinv : s.Inv) (hp : s.phase = .recvC4 len) :
    Pops s (afterPop len s) :=
  ⟨_, len, queue_eq_cons_afterPop hinv hp, hp, hinv.oldest_length_of_c4 hp, by rw [← byteResult_eq]; rfl⟩

/-- A handler invocation leaves the queue alone, or F = 1 and it appends the delivered frame. -/
theorem takeInterrupt_queue {f : Bool} {s t : State} (hinv : s.Inv) (h : takeInterrupt f s = .next t) :
    t.queue = s.queue ∨ (s.mode = .rx ∧ f = true ∧ Appends s t s.framePayload) := by
  obtain ⟨_, _, rfl⟩ | ⟨hm, hf, hroom, _, rfl⟩ | ⟨_, _, _, rfl⟩ | ⟨_, rfl⟩ := takeInterrupt_next h
  · exact .inl (queue_congr rfl rfl)
  · have hqueue := afterPush_queue (afterDrain_inv true hinv) hroom (framePayload_le s)
    have hcount : readCount true (afterDrain true s).calls = readCount true s.calls + 1 := by
      simp [afterDrain, readCount]
    exact .inr ⟨hm, hf, hqueue, framePayload_le s, hcount⟩
  · exact .inl rfl
  · exact .inl rfl

/-- A poll leaves the queue alone, or the line and F are answered 1 and it appends the frame delivered next. -/
theorem pollService_queue {s t : State} (hinv : s.Inv) (h : pollService s = .next t) :
    t.queue = s.queue ∨ (s.mode = .rx ∧ s.nextBool = true ∧ s.dropBool.nextBool = true ∧
      Appends s t s.dropBool.dropBool.framePayload) := by
  obtain ⟨_, rfl⟩ | ⟨_, _, rfl⟩ | ⟨_, hline, _, hint⟩ | ⟨_, _, _, rfl⟩ := pollService_next h
  · exact .inl rfl
  · exact .inl rfl
  · have hline' : readCount true (afterLine s).dropBool.calls = readCount true s.calls := by
      simp [afterLine, readCount]
    obtain hsame | ⟨hm, hf, hqueue, hlen, hcount⟩ :=
      takeInterrupt_queue ((AskedOnly.dropBool _).inv (afterLine_inv hinv)) hint
    · exact .inl hsame
    · exact .inr ⟨hm, hline, hf, hqueue, hlen, hcount.trans (by rw [hline'])⟩
  · exact .inl rfl

/-- A SEND that is held does not stand in MODE = RX (42_mode_ops R172). -/
theorem mode_ne_rx_of_held {s : State} (hinv : s.Inv) {op : SendOp} {data : List Byte} {a : Nat}
    (h : s.phase = .sendS2 op data a ∧ s.mode ≠ .rx ∨ s.phase = .sendS3 op data a ∧ s.txpend = true) :
    s.mode ≠ .rx := by
  obtain ⟨_, hm⟩ | ⟨_, hpend⟩ := h
  · exact hm
  · simp [hinv.pending.1 hpend]

/-- Everything a move can do to the abstract queue. -/
theorem Move.queue {i : Instr} {s t : State} (hinv : s.Inv) (m : Move s t i) :
    t.queue = s.queue ∨
      (i = .irq true ∧ s.cfg.irqPolled = false ∧ Appends s t s.framePayload) ∨
      (i = .available ∧ s.phase = .idle ∧ s.cfg.irqPolled = true ∧ s.nextBool = true ∧
        s.dropBool.nextBool = true ∧ Appends s t s.dropBool.dropBool.framePayload) ∨
      (i = .receive ∧ Pops s t) := by
  cases m
  case irq f hen hint =>
    obtain hsame | ⟨_, rfl, happ⟩ := takeInterrupt_queue hinv hint
    · exact .inl hsame
    · exact .inr (.inl ⟨rfl, (irqEnabled_iff.1 hen).1, happ⟩)
  case poll u hp _ hpolled hpoll ht =>
    obtain ⟨_, _, _, _, hphase, _⟩ := pollService_frame hpoll
    have hqueue : t.queue = u.queue := by
      subst ht
      exact queue_eq_of_noPop rfl (by simp [hphase, hp]) (by simp)
    have hcalls : t.calls = u.calls := ht ▸ rfl
    obtain hsame | ⟨_, hline, hf, happ, hlen, hcount⟩ := pollService_queue hinv hpoll
    · exact .inl (hqueue.trans hsame)
    · exact .inr (.inr (.inl ⟨rfl, hp, hpolled, hline, hf, hqueue.trans happ, hlen, hcalls ▸ hcount⟩))
  case hold hheld hwait =>
    obtain ⟨_, ht⟩ | ⟨_, hpoll⟩ := hwait
    · exact .inl (ht ▸ rfl)
    · obtain hsame | ⟨hm, _⟩ := pollService_queue hinv hpoll
      · exact .inl hsame
      · exact absurd hm (mode_ne_rx_of_held hinv hheld)
  case c3 len _ hp _ ht =>
    exact .inl (ht ▸ queue_advanceHead hinv (popPending_eq_zero (by simp [hp])) len)
  case c4 len hp ht => exact ht ▸ .inr (.inr (.inr ⟨rfl, afterPop_pops hinv hp⟩))
  case answer hp hu ht _ =>
    subst ht
    exact .inl (queue_eq_of_noPop hu.queueRegs (by obtain hp | hp := hp <;> simp [hp]) (by simp))
  case u2 hp hu ht | s4End hp hu ht | initFailed hp _ hu ht | setaddr hp hu ht | initOk hp _ hu ht |
      lowPower hp _ _ hu ht _ | powerUp hp _ hu ht | s4Again hp _ hu ht =>
    subst ht
    exact .inl (queue_eq_of_noPop hu.queueRegs (by simp [hp]) (by simp))
  case illegal hp ht _ | none hp _ _ ht | c0 hp _ _ ht | c1 hp ht | c2 hp _ ht | u0 hp _ ht | u1 hp ht |
      s0 hp _ _ _ ht | s1 hp _ ht | s2 hp _ _ ht | s2End hp _ _ ht | s3 hp _ ht =>
    subst ht
    exact .inl (queue_eq_of_noPop rfl (by simp [hp]) (by simp))

/-- The event byte of an interrupt with F = 1 (30_encoding R93). -/
theorem eq_0x81_of_decode {e : Byte} (h : decode (.ev e) = .ok (.irq true)) : e = 0x81 := by
  revert e
  decide

end Sys2Proof.Machine
end

section
/-! SUPPORT. One equation per micro-step of RECEIVE (40_queue_ops R127, R128). -/

namespace Sys2Proof.Machine

/-- With no operation in progress a response is appended and nothing else changes (00_scope R18). -/
theorem respond_idle {s : State} (hp : s.phase = .idle) (st : Status) (rv : Half) :
    respond st rv s = .next { s with rsp := s.rsp ++ [⟨st, rv⟩] } := by
  rw [respond_eq, ← hp]

theorem exec_receive_idle {s : State} (hp : s.phase = .idle) :
    exec .receive s = if s.cfg.buffered then receiveC0 s else receiveDirectU0 s := by
  change execReceive s = _
  rw [execReceive, onPort_idle hp, hp]

/-- c0 on an empty queue. -/
theorem exec_receive_empty {s : State} (hp : s.phase = .idle) (hbuf : s.cfg.buffered = true)
    (hocc : s.occ.toNat = 0) : exec .receive s = .next { s with rsp := s.rsp ++ [⟨.none, 0⟩] } := by
  rw [exec_receive_idle hp, if_pos hbuf, receiveC0, if_pos (by simp [State.empty, hocc]), respond_idle hp]

theorem exec_receive_c0 {s : State} (hp : s.phase = .idle) (hbuf : s.cfg.buffered = true)
    (hocc : s.occ.toNat ≠ 0) : exec .receive s = .next { s with phase := .recvC1 } := by
  rw [exec_receive_idle hp, if_pos hbuf, receiveC0, if_neg (by simp [State.empty, hocc]), goto_eq]

/-- LEN of a slot in 0 .. N-1 is read (20_memory R62). -/
theorem readSlotLen_inside {s : State} {i : Nat} (hi : i < s.cfg.n) : readSlotLen i s = some (s.slotLen i) :=
  if_pos (slot_inside (j := 0) hi (Nat.succ_pos _))

/-- So is a payload byte with an index below MAX_FRAME_LEN. -/
theorem readSlotData_inside {s : State} {i j : Nat} (hi : i < s.cfg.n) (hj : j < s.cfg.maxFrameLen) :
    readSlotData i j s = some (s.slotByte i j) := by
  have haddr : slotDataAddr s.cfg i j < s.cfg.memSize := by
    rw [slotDataAddr, Nat.add_assoc]
    exact slot_inside hi (by rw [Config.slotSize]; omega)
  rw [readSlotData, if_pos hj, memRead, if_pos haddr]
  rfl

theorem exec_receive_c1 {s : State} (hhead : s.head.toNat < s.cfg.n) (hp : s.phase = .recvC1) :
    exec .receive s = .next { s with phase := .recvC2 (s.slotLen s.head.toNat) 0 } := by
  change execReceive s = _
  rw [execReceive, onPort_own (by rw [hp, Phase.instr]), hp]
  simp only [receiveC1, readSlotLen_inside hhead, goto_eq]

/-- RECEIVE with L latched goes on with c2[i] or with c3. -/
theorem exec_receive_latched {len : Byte} {i : Nat} {s : State} (hp : s.phase = .recvC2 len i) :
    exec .receive s = if i < len.toNat then receiveC2 len i s else receiveC3 len s := by
  change execReceive s = _
  rw [execReceive, onPort_own (by rw [hp, Phase.instr]), hp]

/-- The state after bytes were emitted on RXD, with the phase that follows (30_encoding R103). -/
def emit (bytes : List Byte) (p : Phase) (s : State) : State := { s with rxd := s.rxd ++ bytes, phase := p }

theorem emit_emit (xs ys : List Byte) (p q : Phase) (s : State) :
    emit ys q (emit xs p s) = emit (xs ++ ys) q s := by
  simp only [emit, List.append_assoc]

theorem emit_nil {p : Phase} {s : State} (hp : s.phase = p) : emit [] p s = s := by
  rw [emit, List.append_nil, ← hp]

theorem exec_receive_c2 {len : Byte} {i : Nat} {s : State} (hhead : s.head.toNat < s.cfg.n)
    (hp : s.phase = .recvC2 len i) (hi : i < len.toNat) (hmax : i < s.cfg.maxFrameLen) :
    exec .receive s = .next (emit [s.slotByte s.head.toNat i] (.recvC2 len (i + 1)) s) := by
  rw [exec_receive_latched hp, if_pos hi, receiveC2, readSlotData_inside hhead hmax]
  rfl

/-- The state after c3: HEAD advanced, the pop pending. -/
def afterC3 (len : Byte) (s : State) : State := { s with head := nextIndex s.cfg s.head, phase := .recvC4 len }

theorem exec_receive_c3 {len : Byte} {i : Nat} {s : State} (hp : s.phase = .recvC2 len i)
    (hi : len.toNat ≤ i) : exec .receive s = .next (afterC3 len s) := by
  rw [exec_receive_latched hp, if_neg hi.not_gt]
  rfl

/-- The state after u0 of direct mode: the chip's frame is read and capped (40_queue_ops R128). -/
def afterU0 (s : State) : State :=
  { s with
    phase := .directU (lenByte s.framePayload) s.framePayload s.nextFrame.wantAck
    frames := s.frames.tail, drawn := s.drawn + 1, calls := s.calls ++ [.readFrame true] }

theorem exec_receive_u0 {s : State} (hp : s.phase = .idle) (hbuf : s.cfg.buffered = false) :
    exec .receive s = .next (afterU0 s) := by
  rw [exec_receive_idle hp, if_neg (by simp [hbuf])]
  rfl

theorem exec_receive_direct {len : Byte} {rest : List Byte} {ack : Bool} {s : State}
    (hp : s.phase = .directU len rest ack) : exec .receive s = receiveDirectU len rest ack s := by
  change execReceive s = _
  rw [execReceive, onPort_own (by rw [hp, Phase.instr]), hp]

theorem exec_receive_u1 {len b : Byte} {bs : List Byte} {ack : Bool} {s : State}
    (hp : s.phase = .directU len (b :: bs) ack) :
    exec .receive s = .next (emit [b] (.directU len bs ack) s) :=
  exec_receive_direct hp

/-- The state after u2: the acknowledgment is sent if the frame asked for one, and the length answered. -/
def afterU2 (len : Byte) (ack : Bool) (s : State) : State :=
  { s with
    phase := .idle, calls := s.calls ++ (if ack then [.sendAck] else [])
    rsp := s.rsp ++ [⟨.done, BitVec.ofNat 16 len.toNat⟩] }

theorem exec_receive_u2 {len : Byte} {ack : Bool} {s : State} (hp : s.phase = .directU len [] ack) :
    exec .receive s = .next (afterU2 len ack s) := by
  rw [exec_receive_direct hp, receiveDirectU, respond_eq, byteResult_eq, afterU2]
  cases ack <;> simp

end Sys2Proof.Machine
end

section
/-! SUPPORT. Runs of several steps, and the runs of the two loops of RECEIVE (40_queue_ops R127, R128). -/

namespace Sys2Proof.Machine

theorem stepTimes_succ {s t : State} (h : step s = .next t) (k : Nat) :
    stepTimes (k + 1) s = stepTimes k t := by
  rw [stepTimes, h, andThen_of_next]

theorem stepTimes_add {m : Nat} {s t : State} (h : stepTimes m s = .next t) (n : Nat) :
    stepTimes (m + n) s = stepTimes n t := by
  induction m generalizing s with
  | zero => rw [Nat.zero_add, ← Host.Outcome.next.inj h]
  | succ m ih =>
    obtain ⟨u, hu, hrun⟩ := andThen_next.1 (h : andThen (step s) (stepTimes m) = _)
    rw [Nat.succ_add, stepTimes_succ hu, ih hrun]

/-- With no input left a RECEIVE in progress has its next micro-step (30_encoding R104; log 22). -/
theorem step_receive {s : State} (hin : s.inputs = []) (hp : s.phase.instr = some .receive) :
    step s = exec .receive s := (step_silent hin).trans (mainStep_inProgress hp)

/-- The command word of RECEIVE is accepted. -/
theorem step_receive_accepted {s : State} {rest : List Input} (hp : s.phase = .idle)
    (hin : s.inputs = .word (.cw 0x00000002) :: rest) :
    step s = exec .receive { s with inputs := rest } :=
  stepAcceptsDecodedCommand s rest _ .receive hp hin (by decide)

/-- `k` iterations of c2 emit the next `k` bytes of the slot at HEAD. -/
theorem stepTimes_c2 {len : Byte} {i : Nat} (k : Nat) {s : State} (hin : s.inputs = [])
    (hhead : s.head.toNat < s.cfg.n) (hlen : len.toNat ≤ s.cfg.maxFrameLen) (hp : s.phase = .recvC2 len i)
    (hk : i + k ≤ len.toNat) :
    stepTimes k s =
      .next (emit ((List.range' i k).map (s.slotByte s.head.toNat)) (.recvC2 len (i + k)) s) := by
  induction k generalizing s i with
  | zero => exact congrArg _ (emit_nil hp).symm
  | succ k ih =>
    have hstep := (step_receive hin (by rw [hp, Phase.instr])).trans
      (exec_receive_c2 hhead hp (by omega) (by omega))
    have hrest := ih (s := emit [s.slotByte s.head.toNat i] (.recvC2 len (i + 1)) s) hin hhead hlen rfl
      (by omega)
    rw [stepTimes_succ hstep, hrest, emit_emit, Nat.add_assoc, Nat.add_comm 1]
    rfl

/-- The iterations of u1 emit the bytes left. -/
theorem stepTimes_u1 {len : Byte} {bs : List Byte} {ack : Bool} {s : State} (hin : s.inputs = [])
    (hp : s.phase = .directU len bs ack) :
    stepTimes bs.length s = .next (emit bs (.directU len [] ack) s) := by
  induction bs generalizing s with
  | nil => exact congrArg _ (emit_nil hp).symm
  | cons b bs ih =>
    have hstep := (step_receive hin (by rw [hp, Phase.instr])).trans (exec_receive_u1 hp)
    have hrest := ih (s := emit [b] (.directU len bs ack) s) hin rfl
    rw [List.length_cons, stepTimes_succ hstep, hrest, emit_emit]
    rfl

/-- The rest of a direct-mode RECEIVE from u1 on: one u1 for each byte left, u2. -/
theorem stepTimes_direct {len : Byte} {bs : List Byte} {ack : Bool} {s : State} (hin : s.inputs = [])
    (hp : s.phase = .directU len bs ack) :
    stepTimes (bs.length + 1) s = .next (afterU2 len ack (emit bs (.directU len [] ack) s)) := by
  have hu2 := (step_receive (s := emit bs (.directU len [] ack) s) hin rfl).trans (exec_receive_u2 rfl)
  rw [stepTimes_add (stepTimes_u1 hin hp), stepTimes_succ hu2, stepTimes]

/-- The state after c0 of a RECEIVE whose command word was the only input. -/
def beforeC1 (s : State) : State := { s with inputs := [], phase := .recvC1 }

/-- LEN of the slot at HEAD, the length a RECEIVE latches at c1. -/
def State.headLen (s : State) : Byte := s.slotLen s.head.toNat

/-- The state before c3 of a RECEIVE that stands before c1 in `s`: the frame at HEAD is emitted. -/
def beforeC3 (s : State) : State := emit (s.slotFrame s.head.toNat) (.recvC2 s.headLen s.headLen.toNat) s

/-- The state before c4 of that RECEIVE. -/
def beforeC4 (s : State) : State := afterC3 s.headLen (beforeC3 s)

/-- The state at its end. -/
def received (s : State) : State := afterPop s.headLen (beforeC4 s)

theorem beforeC3_inv {s : State} (hinv : s.Inv) (hp : s.phase = .recvC1) : (beforeC3 s).Inv := by
  have hphase := hinv.phase
  rw [State.phaseInv, hp] at hphase
  obtain ⟨hbuf, hpos⟩ := hphase
  exact hinv.goesOn rfl (by simp [hp]) (by simp [beforeC3, emit]) hinv.pending ⟨hbuf, hpos, rfl, le_rfl⟩

/-- A RECEIVE that stands before c1 pops the frame at HEAD. -/
theorem queue_eq_cons_received {s : State} (hinv : s.Inv) (hp : s.phase = .recvC1) :
    s.queue = s.slotFrame s.head.toNat :: (received s).queue := by
  have hinv3 := beforeC3_inv hinv hp
  have hinv4 : (beforeC4 s).Inv := hinv3.advanceHead rfl
  have hpop : (beforeC3 s).popPending = 0 := popPending_eq_zero (by simp [beforeC3, emit])
  have hidx : (beforeC4 s).slotIndex 0 = s.head.toNat :=
    (slotIndex_advanceHead hinv3 hpop _ 0).trans (slotIndex_zero hpop hinv3.head_lt)
  have hc4 : (beforeC4 s).queue = (beforeC4 s).slotFrame s.head.toNat :: (received s).queue :=
    hidx ▸ queue_eq_cons_afterPop hinv4 rfl
  have hc3 : (beforeC3 s).queue = s.queue := queue_eq_of_noPop rfl (by simp [hp]) (by simp [beforeC3, emit])
  calc s.queue
    _ = (beforeC3 s).queue := hc3.symm
    _ = (beforeC4 s).queue := (queue_advanceHead hinv3 hpop _).symm
    _ = s.slotFrame s.head.toNat :: (received s).queue := hc4

/-- The length latched at c1 is at most MAX_FRAME_LEN: the slot at HEAD is occupied (10_state R39 I4). -/
theorem State.Inv.headLen_le {s : State} (hinv : s.Inv) (hp : s.popPending = 0) (hpos : 0 < s.occ.toNat) :
    s.headLen.toNat ≤ s.cfg.maxFrameLen := by
  rw [State.headLen, ← slotIndex_zero hp hinv.head_lt]
  exact hinv.lens 0 hpos

/-- The rest of a RECEIVE from c1 on: c1, one c2 for each byte, c3, c4. -/
theorem stepTimes_received {s : State} (hinv : s.Inv) (hin : s.inputs = []) (hp : s.phase = .recvC1) :
    stepTimes (s.headLen.toNat + 3) s = .next (received s) := by
  have hlen := hinv.headLen_le (popPending_eq_zero (by simp [hp])) (hinv.occ_pos_of_reading (.inl hp))
  have hc1 := (step_receive hin (by rw [hp, Phase.instr])).trans (exec_receive_c1 hinv.head_lt hp)
  have hc2 := stepTimes_c2 s.headLen.toNat (s := { s with phase := .recvC2 s.headLen 0 }) hin hinv.head_lt
    hlen rfl (Nat.zero_add _).le
  have hc3 : step (beforeC3 s) = .next (beforeC4 s) :=
    (step_receive (s := beforeC3 s) hin rfl).trans (exec_receive_c3 rfl le_rfl)
  have hc4 : step (beforeC4 s) = .next (received s) := 
    (step_receive (s := beforeC4 s) hin rfl).trans (exec_receive_c4 rfl)
  rw [Nat.zero_add, ← List.range_eq_range'] at hc2
  calc stepTimes (s.headLen.toNat + 3) s
    _ = stepTimes (s.headLen.toNat + 2) { s with phase := .recvC2 s.headLen 0 } := stepTimes_succ hc1 _
    _ = stepTimes 2 (beforeC3 s) := stepTimes_add hc2 2
    _ = stepTimes 1 (beforeC4 s) := stepTimes_succ hc3 1
    _ = stepTimes 0 (received s) := stepTimes_succ hc4 0

/-- An interrupt with F = 1 in MODE = RX stores the delivered frame while there is room (41_irq_handler R152). -/
theorem step_irq_store {s : State} {rest : List Input} (hin : s.inputs = .word (.ev 0x81) :: rest)
    (hen : s.irqEnabled = true) (hm : s.mode = .rx) (hroom : s.occ.toNat < s.cfg.n)
    (htail : s.tail.toNat < s.cfg.n) :
    step s = .next (afterPush s.framePayload (afterDrain true { s with inputs := rest })) :=
  calc step s
    _ = exec (.irq true) { s with inputs := rest } := stepTakesDecodedEvent s rest _ _ hin (by decide)
    _ = takeInterrupt true { s with inputs := rest } := exec_irq_enabled hen
    _ = _ := takeInterrupt_store hm hroom htail

/-- A frame of at most MAX_FRAME_LEN bytes is taken whole (41_irq_handler R159). -/
theorem framePayload_eq_bytes {s : State} (hc : s.cfg.wellFormed = true)
    (h : s.nextFrame.bytes.length ≤ s.cfg.maxFrameLen) : s.framePayload = s.nextFrame.bytes := by
  have hmax := config_bounds hc
  rw [State.framePayload, List.take_take, List.take_of_length_le (by omega)]

end Sys2Proof.Machine
end

section
/-! SUPPORT. AVAILABLE, one equation per case, and the state of its poll after each kind of invocation (40_queue_ops
R124 to R126); QEMPTY, QFULL and RDCSR as one response each (R129 to R131). -/

namespace Sys2Proof.Machine

theorem boolResult_empty (s : State) : boolResult s.empty = if s.occ.toNat = 0 then 1 else 0 := by
  simp [boolResult, State.empty]

theorem boolResult_not_empty (s : State) : boolResult (!s.empty) = if s.occ.toNat = 0 then 0 else 1 := by
  simp [boolResult, State.empty]

theorem boolResult_full (s : State) : boolResult s.full = if s.occ.toNat = s.cfg.n then 1 else 0 := by
  simp [boolResult, State.full]

theorem availableAnswer_eq (s : State) : availableAnswer s =
    .next { s with phase := .idle, rsp := s.rsp ++ [⟨.done, if s.occ.toNat = 0 then 0 else 1⟩] } := by
  rw [availableAnswer, respond_eq, boolResult_not_empty]

theorem exec_available_a1 {s : State} (hp : s.phase = .availA1) : exec .available s = availableAnswer s := by
  change execAvailable s = _
  rw [execAvailable, onPort_own (by rw [hp, Phase.instr]), hp]

theorem exec_available_idle {s : State} (hp : s.phase = .idle) :
    exec .available s =
      if s.cfg.buffered then
        if s.cfg.irqPolled then andThen (pollService s) (goto .availA1) else availableAnswer s
      else availableDirect s := by
  change execAvailable s = _
  rw [execAvailable, onPort_idle hp, hp]

/-- a0 on a polled line: the poll, then a1. -/
theorem exec_available_poll {s u : State} (hp : s.phase = .idle) (hbuf : s.cfg.buffered = true)
    (hpolled : s.cfg.irqPolled = true) (hpoll : pollService s = .next u) :
    exec .available s = .next { u with phase := .availA1 } := by
  rw [exec_available_idle hp, if_pos hbuf, if_pos hpolled, hpoll, andThen_of_next, goto_eq]

/-- An asserted line in MODE = RX and F = 0: the line is read and the housekeeping called. -/
theorem pollService_noFrame {s : State} (h : s.handlerInUse = true) (hb : s.nextBool = true) (hm : s.mode = .rx)
    (hf : s.dropBool.nextBool = false) :
    pollService s = .next ((afterLine s).dropBool.record .irqHousekeeping) := by
  rw [pollService_rx h hb hm, show (afterLine s).nextBool = false from hf]
  exact takeInterrupt_noFrame hm

/-- An asserted line in MODE = RX and a frame that finds no room: it is discarded and counted. -/
theorem pollService_discard {s : State} (h : s.handlerInUse = true) (hb : s.nextBool = true) (hm : s.mode = .rx)
    (hf : s.dropBool.nextBool = true) (hfull : s.cfg.n ≤ s.occ.toNat) :
    pollService s = .next { afterDrain false (afterLine s).dropBool with lost := lostSucc s.lost } := by
  rw [pollService_rx h hb hm, show (afterLine s).nextBool = true from hf]
  exact takeInterrupt_discard (s := (afterLine s).dropBool) hm hfull

/-- The state after a poll drained a frame: the line and F were answered before it. -/
theorem afterDrain_polled (keep : Bool) (s : State) : afterDrain keep (afterLine s).dropBool =
    { s with
      bools := s.bools.tail.tail, frames := s.frames.tail, drawn := s.drawn + 3
      calls := s.calls ++ [.irqLine, .irqHousekeeping, .readFrame keep] } := by
  simp [afterDrain, afterLine, State.record, State.dropBool, State.dropFrame]

theorem exec_qempty_idle {s : State} (hp : s.phase = .idle) :
    exec .qempty s = .next { s with rsp := s.rsp ++ [⟨.done, boolResult s.empty⟩] } := by
  change execQempty s = _
  rw [execQempty, onPort_idle hp, respond_idle hp]

theorem exec_qfull_idle {s : State} (hp : s.phase = .idle) :
    exec .qfull s = .next { s with rsp := s.rsp ++ [⟨.done, boolResult s.full⟩] } := by
  change execQfull s = _
  rw [execQfull, onPort_idle hp, respond_idle hp]

theorem exec_rdcsr_populated {k : Byte} {v : Half} {s : State} (hp : s.phase = .idle)
    (hk : csrRead k s = some v) : exec (.rdcsr k) s = .next { s with rsp := s.rsp ++ [⟨.done, v⟩] } := by
  change execRdcsr k s = _
  rw [execRdcsr, onPort_idle hp, hk]
  exact respond_idle hp .done v

/-- The bits of STATUS as a sum (10_state R32). -/
theorem statusBits_eq (empty full txpend ready : Bool) :
    (0 : BitVec 12) ++ BitVec.ofBool ready ++ BitVec.ofBool txpend ++ BitVec.ofBool full ++ BitVec.ofBool empty =
      BitVec.ofNat 16 ((if empty then 1 else 0) + (if full then 2 else 0) + (if txpend then 4 else 0) +
        (if ready then 8 else 0)) := by
  revert empty full txpend ready
  decide

theorem statusWord_eq (s : State) : statusWord s = BitVec.ofNat 16
    ((if s.occ.toNat = 0 then 1 else 0) + (if s.occ.toNat = s.cfg.n then 2 else 0) +
      (if s.txpend then 4 else 0) + (if s.ready then 8 else 0)) := by
  rw [statusWord, statusBits_eq]
  simp [State.empty, State.full]

/-- RDCSR's word carries `k` in its A field (30_encoding R94, 40_queue_ops R131). -/
theorem decodeCommand_rdcsr (k : Byte) :
    decodeCommand (0x00000005#32 + (k.zeroExtend 32 <<< 8)) = .ok (.rdcsr k) := by
  have hk := k.isLt
  have hw : (0x00000005#32 + (k.zeroExtend 32 <<< 8)).toNat = 5 + k.toNat * 256 := by
    simp [Nat.shiftLeft_eq]
    omega
  have hop : opField (0x00000005#32 + (k.zeroExtend 32 <<< 8)) = 0x05 := by
    apply BitVec.eq_of_toNat_eq
    rw [opField_toNat, hw]
    exact Nat.add_mul_mod_self_right 5 k.toNat 256
  have ha : k = aField (0x00000005#32 + (k.zeroExtend 32 <<< 8)) := by
    apply BitVec.eq_of_toNat_eq
    rw [aField_toNat, hw]
    omega
  exact decodeCommand_ok_iff.2 ⟨rfl, hop, ha⟩

end Sys2Proof.Machine
end

section
/-! The statements of the family 40_queue_ops. -/

namespace Sys2Proof.Machine

/-- Settles O52, by cases on where the step comes from: a frame is appended by an interrupt or by the accepted
AVAILABLE, and an operation in progress can only pop. -/
theorem queueIsFifo : Obligations.QueueIsFifo := by
  intro s t hinv hr h
  cases step_from h with
  | reset rest hin _ => exact absurd (by simp [State.resetNext, hin]) hr
  | waits rest _ _ ht => exact .inl (ht ▸ rfl)
  | reserved _ _ _ _ hp _ ht => exact .inl (ht ▸ queue_eq_of_noPop rfl (by simp [hp]) (by simp))
  | goesOn i rest hi _ _ hx =>
    obtain hsame | ⟨rfl, _⟩ | ⟨_, hp, _⟩ | ⟨_, hpop⟩ := (exec_move hx).queue (hinv.setInputs rest)
    · exact .inl hsame
    · exact absurd (phase_instr_isMain hi) (by simp [isMain])
    · exact absurd (phase_instr_none.2 hp) (by simp [hi])
    · exact .inr (.inr hpop)
  | accepts i w rest hp hin hdec hx =>
    obtain hsame | ⟨rfl, _⟩ | ⟨rfl, _, hpolled, hline, hf, hqueue, hlen, hcount⟩ | ⟨_, hpop⟩ :=
      (exec_move hx).queue (hinv.setInputs rest)
    · exact .inl hsame
    · exact absurd (decode_cw hdec) (by simp [isMain])
    · exact .inr (.inl ⟨_, hqueue, hlen, hcount, .inr ⟨hpolled, ⟨hp, w, rest, hin, hdec⟩, hline, hf, rfl⟩⟩)
    · exact .inr (.inr hpop)
  | interrupt i e rest hin hdec hx =>
    obtain ⟨f, rfl⟩ := decode_ev hdec
    obtain hsame | ⟨hi, hline, hqueue, hlen, hcount⟩ | ⟨hi, _⟩ | ⟨hi, _⟩ :=
      (exec_move hx).queue (hinv.setInputs rest)
    · exact .inl hsame
    · obtain rfl := eq_0x81_of_decode (hi ▸ hdec)
      exact .inr (.inl ⟨_, hqueue, hlen, hcount, .inl ⟨hline, ⟨rest, hin⟩, rfl⟩⟩)
    · cases hi
    · cases hi

/-- Settles O21: c0 finds the queue not empty, and the rest of the RECEIVE pops the frame at HEAD. -/
theorem receivePopsOldestFrame : Obligations.ReceivePopsOldestFrame := by
  intro s f rest hinv hp hbuf hin hqueue
  have hpop : s.popPending = 0 := popPending_eq_zero (by simp [hp])
  have hpos : 0 < s.occ.toNat := Nat.pos_of_ne_zero fun hocc => by simp [State.queue, hocc] at hqueue
  have hc0 : step s = .next (beforeC1 s) :=
    (step_receive_accepted hp hin).trans (exec_receive_c0 (s := { s with inputs := [] }) hp hbuf hpos.ne')
  have hinv1 : (beforeC1 s).Inv := invariantKept s _ hinv hc0
  have hsame : (beforeC1 s).queue = s.queue := queue_eq_of_noPop rfl (by simp [hp]) (by simp [beforeC1])
  have hcons : f :: rest = s.slotFrame s.head.toNat :: (received (beforeC1 s)).queue :=
    (hsame.trans hqueue).symm.trans (queue_eq_cons_received hinv1 rfl)
  obtain ⟨rfl, hrest⟩ := List.cons.inj hcons
  have hlen : (s.slotFrame s.head.toNat).length = s.headLen.toNat := slotFrame_length s _
  refine ⟨hlen ▸ hinv.headLen_le hpop hpos, received (beforeC1 s), ?_, hrest.symm, ?_⟩
  · rw [hlen, Nat.add_comm 4]
    exact (stepTimes_succ hc0 _).trans (stepTimes_received hinv1 rfl rfl)
  · rw [hlen, received, afterPop, byteResult_eq, ← hp]
    rfl

/-- Settles O23: u0, one u1 for each byte of the frame, u2. -/
theorem receiveDirectCopiesChipFrame : Obligations.ReceiveDirectCopiesChipFrame := by
  intro s hp hcfg hbuf hin
  have hu0 : step s = .next (afterU0 { s with inputs := [] }) :=
    (step_receive_accepted hp hin).trans (exec_receive_u0 (s := { s with inputs := [] }) hp hbuf)
  have hrest := stepTimes_direct (s := afterU0 { s with inputs := [] }) rfl rfl
  have hlen : (lenByte (State.framePayload { s with inputs := [] })).toNat = s.framePayload.length :=
    lenByte_framePayload hcfg
  rw [Nat.add_comm 2, stepTimes_succ hu0]
  refine hrest.trans ?_
  rw [afterU2, hlen, ← hp]
  rfl

/-- Settles O60: the interrupt stores the frame as the only one of the queue, and the RECEIVE pops it. -/
theorem pushPopRoundTrip : Obligations.PushPopRoundTrip := by
  intro s fr fs hinv hp hbuf hpolled hready hm hocc hframes hlen hin
  have hnext : s.nextFrame = fr := s.nextFrame_cons fr fs hframes
  have hpay : s.framePayload = fr.bytes := hnext ▸ framePayload_eq_bytes hinv.config (hnext.symm ▸ hlen)
  have hen : s.irqEnabled = true := irqEnabled_iff.2 ⟨hpolled, hbuf, hready, by rw [hm]; rfl⟩
  have hroom : s.occ.toNat < s.cfg.n := hocc ▸ (config_bounds hinv.config).1
  have hdrained := afterDrain_inv true (hinv.setInputs [.word (.cw 0x00000002)])
  have hpush := step_irq_store hin hen hm hroom hinv.tail_lt
  have hqueue := afterPush_queue hdrained hroom hlen
  have hempty : s.queue = [] := by rw [State.queue, hocc, List.range_zero, List.map_nil]
  rw [hpay] at hpush
  obtain ⟨_, t, hrun, _, ht⟩ := receivePopsOldestFrame _ fr.bytes [] (invariantKept s _ hinv hpush) hp hbuf rfl
    (hqueue.trans (congrArg (· ++ [fr.bytes]) hempty))
  refine ⟨t, ?_, ht ▸ rfl, ht ▸ rfl, ?_, ht ▸ rfl⟩
  · rw [Nat.add_right_comm 4 1, stepTimes_succ hpush, hrun]
  · exact (congrArg State.occ ht).trans (afterPop_afterPush_occ hdrained hroom 0 fr.bytes)

/-- Settles O16: a1 and, on a line that is not polled, a0 are the same answer. -/
theorem availableAnswersOccupancy : Obligations.AvailableAnswersOccupancy := by
  rintro s (⟨hp, hbuf, hpolled⟩ | hp)
  · rw [exec_available_idle hp, if_pos hbuf, if_neg (by simp [hpolled]), availableAnswer_eq]
  · rw [exec_available_a1 hp, availableAnswer_eq]

/-- Settles O17, by cases on what the poll finds. -/
theorem availablePollsOnce : Obligations.AvailablePollsOnce := by
  intro s hp hbuf hpolled
  have hpoll := fun u => exec_available_poll (u := u) hp hbuf hpolled
  have huse : s.ready = true → s.mode.active = true → s.handlerInUse = true :=
    fun hready hact => handlerInUse_iff.2 ⟨hbuf, hready, hact⟩
  refine ⟨fun hoff => ?_, fun hready hact hline => ?_, fun hready hm hline => ?_,
    fun hready hm hline hf => ?_, fun hready hm hline hf hfull => ?_,
    fun hinv hready hm hline hf hroom => ?_⟩
  · exact hpoll s (pollService_off (by obtain h | h := hoff <;> simp [State.handlerInUse, h]))
  · exact hpoll _ (pollService_quiet (huse hready hact) hline)
  · exact hpoll _ (pollService_tx (huse hready (congrArg Mode.active hm)) hline hm)
  · rw [hpoll _ (pollService_noFrame (huse hready (congrArg Mode.active hm)) hline hm hf)]
    simp [afterLine, State.record, State.dropBool]
  · have hdiscard := pollService_discard (huse hready (congrArg Mode.active hm)) hline hm hf hfull.ge
    rw [hpoll _ hdiscard, afterDrain_polled]
    rfl
  · have hdrained := afterDrain_inv true ((AskedOnly.dropBool _).inv (afterLine_inv hinv))
    have hstore := pollService_store (huse hready (congrArg Mode.active hm)) hline hm hf hroom hinv.tail_lt
    rw [afterDrain_polled] at hdrained hstore
    have hlen := framePayload_le s.dropBool.dropBool
    obtain ⟨_, _, _, hmax⟩ := config_bounds hinv.config
    exact ⟨_, hpoll _ hstore, afterPush_slotLen_tail hdrained.memory _,
      afterPush_slotFrame_tail hdrained.memory (hlen.trans_lt hmax),
      fun a ha => afterPush_get_outside hdrained.memory ha, rfl⟩

/-- Settles O18: the query's answer is the response. -/
theorem availableDirectAsksChip : Obligations.AvailableDirectAsksChip := by
  intro s hp hbuf
  rw [exec_available_idle hp, if_neg (by simp [hbuf])]
  exact respond_idle (s := s.dropBool.record .dataReady) hp .done (boolResult s.nextBool)

/-- Settles O19: c0 finds no frame. -/
theorem receiveEmptyAnswersNone : Obligations.ReceiveEmptyAnswersNone := fun _ => exec_receive_empty

/-- Settles O20, one equation per micro-step. -/
theorem receiveMicroSteps : Obligations.ReceiveMicroSteps := by
  intro s hhead
  refine ⟨exec_receive_c0, exec_receive_c1 hhead, fun _ _ => exec_receive_c2 hhead, fun _ _ => exec_receive_c3,
    fun len hp => ?_⟩
  rw [exec_receive_c4 hp, afterPop, byteResult_eq]

/-- Settles O22, one equation per micro-step. -/
theorem receiveDirectMicroSteps : Obligations.ReceiveDirectMicroSteps :=
  fun _ => ⟨exec_receive_u0, fun _ _ _ _ => exec_receive_u1, fun _ _ => exec_receive_u2⟩

/-- Settles O24: the words by evaluation, the answers from the flags EMPTY and FULL. -/
theorem qemptyQfullAnswerOccupancy : Obligations.QemptyQfullAnswerOccupancy := by
  refine ⟨by decide, by decide, fun s hp => ⟨?_, ?_⟩⟩
  · rw [exec_qempty_idle hp, boolResult_empty]
  · rw [exec_qfull_idle hp, boolResult_full]

/-- Settles O25, register by register. -/
theorem rdcsrReadsRegister : Obligations.RdcsrReadsRegister := by
  refine ⟨decodeCommand_rdcsr, fun s hp => ⟨?_, ?_, ?_, ?_, ?_, fun k hk => ?_⟩⟩
  · exact exec_rdcsr_populated hp (congrArg some (statusWord_eq s))
  · exact exec_rdcsr_populated hp (congrArg some (byteResult_eq s.occ))
  · exact exec_rdcsr_populated hp (congrArg some (byteResult_eq s.lost))
  · exact exec_rdcsr_populated hp (congrArg some (BitVec.ofNat_toNat 16 s.mode.code).symm)
  · exact exec_rdcsr_populated hp (congrArg some (byteResult_eq s.addr))
  · rw [exec_rdcsr_unpopulated hp hk, respondIllegal_idle hp]

end Sys2Proof.Machine
end

section
/-! SUPPORT. The interrupt, one equation per case of the handler (41_irq_handler R150 to R155). -/

namespace Sys2Proof.Machine

theorem Mode.active_iff {m : Mode} : m.active = true ↔ m = .rx ∨ m = .tx := by
  cases m <;> simp [Mode.active]

theorem exec_irq_disabled {f : Bool} {s : State} (h : s.irqEnabled = false) :
    exec (.irq f) s = .fault .irqNotEnabled := if_neg (by simp [h])

/-- A next state of the interrupt comes from an invocation of the handler. -/
theorem exec_irq_next {f : Bool} {s t : State} (h : exec (.irq f) s = .next t) :
    s.irqEnabled = true ∧ takeInterrupt f s = .next t := by
  cases hen : s.irqEnabled
  · rw [exec_irq_disabled hen] at h
    cases h
  · exact ⟨rfl, (exec_irq_enabled hen).symm.trans h⟩

/-- On an enabled line in an active mode the interrupt is an invocation of the handler. -/
theorem exec_irq_active {f : Bool} {s : State} (hbuf : s.cfg.buffered = true) (hpolled : s.cfg.irqPolled = false)
    (hready : s.ready = true) (hm : s.mode = .rx ∨ s.mode = .tx) : exec (.irq f) s = takeInterrupt f s :=
  exec_irq_enabled (irqEnabled_iff.2 ⟨hpolled, hbuf, hready, Mode.active_iff.2 hm⟩)

theorem afterDrain_eq (keep : Bool) (s : State) : afterDrain keep s =
    { s with
      frames := s.frames.tail, drawn := s.drawn + 1
      calls := s.calls ++ [.irqHousekeeping, .readFrame keep] } := by
  simp [afterDrain, State.record, State.dropFrame]

end Sys2Proof.Machine
end

section
/-! SUPPORT. The handler's own state: it reads and writes neither HEAD nor ADDR, and OCC, LOST and MODE move one
way only (41_irq_handler R161). -/

namespace Sys2Proof.Machine

/-- `s` with other values in HEAD and ADDR. -/
def withHeadAddr (h a : Byte) (s : State) : State := { s with head := h, addr := a }

/-- With other values in HEAD and ADDR the handler does the same and leaves them. -/
theorem takeInterrupt_withHeadAddr (f : Bool) (h a : Byte) (s : State) :
    takeInterrupt f (withHeadAddr h a s) =
      andThen (takeInterrupt f s) fun t => .next (withHeadAddr h a t) := by
  cases hm : s.mode with
  | rx =>
    cases f with
    | false =>
      rw [takeInterrupt_noFrame hm, takeInterrupt_noFrame (s := withHeadAddr h a s) hm]
      rfl
    | true =>
      by_cases hroom : s.occ.toNat < s.cfg.n
      · by_cases htail : s.tail.toNat < s.cfg.n
        · rw [takeInterrupt_store hm hroom htail, takeInterrupt_store (s := withHeadAddr h a s) hm hroom htail]
          rfl
        · rw [takeInterrupt_outside hm hroom htail,
            takeInterrupt_outside (s := withHeadAddr h a s) hm hroom htail]
          rfl
      · have hfull : s.cfg.n ≤ s.occ.toNat := Nat.le_of_not_lt hroom
        rw [takeInterrupt_discard hm hfull, takeInterrupt_discard (s := withHeadAddr h a s) hm hfull]
        rfl
  | tx =>
    rw [takeInterrupt_txDone hm, takeInterrupt_txDone (s := withHeadAddr h a s) hm]
    rfl
  | sleep | standby | powerDown =>
    have hact : s.mode.active = false := by rw [hm]; rfl
    rw [takeInterrupt_lowPower hact, takeInterrupt_lowPower (s := withHeadAddr h a s) hact]
    rfl

/-- Nor do the conditions of R150 read HEAD and ADDR. -/
theorem exec_irq_withHeadAddr (f : Bool) (h a : Byte) (s : State) :
    exec (.irq f) (withHeadAddr h a s) =
      andThen (exec (.irq f) s) fun t => .next (withHeadAddr h a t) := by
  cases hen : s.irqEnabled
  · rw [exec_irq_disabled hen, exec_irq_disabled (s := withHeadAddr h a s) hen]
    rfl
  · rw [exec_irq_enabled hen, exec_irq_enabled (s := withHeadAddr h a s) hen, takeInterrupt_withHeadAddr]

theorem lostSucc_ge (lost : Byte) : lost.toNat ≤ (lostSucc lost).toNat := by
  have := lost.isLt
  rw [lostSucc_toNat]
  omega

/-- A handler invocation raises OCC and LOST or leaves them, and sets MODE to RX or leaves it. -/
theorem takeInterrupt_monotone {f : Bool} {s t : State} (hc : s.cfg.wellFormed = true)
    (h : takeInterrupt f s = .next t) :
    s.occ.toNat ≤ t.occ.toNat ∧ s.lost.toNat ≤ t.lost.toNat ∧ (t.mode = s.mode ∨ t.mode = .rx) := by
  obtain ⟨_, _, rfl⟩ | ⟨_, _, hroom, _, rfl⟩ | ⟨_, _, _, rfl⟩ | ⟨_, rfl⟩ := takeInterrupt_next h
  · exact ⟨le_rfl, le_rfl, .inl rfl⟩
  · obtain ⟨_, hmax, _⟩ := config_bounds hc
    have hocc : (BitVec.ofNat 8 (s.occ.toNat + 1)).toNat = s.occ.toNat + 1 := toNat_byte (by omega)
    exact ⟨(Nat.le_succ _).trans hocc.ge, le_rfl, .inl rfl⟩
  · exact ⟨le_rfl, lostSucc_ge s.lost, .inl rfl⟩
  · exact ⟨le_rfl, le_rfl, .inr rfl⟩

end Sys2Proof.Machine
end

section
/-! SUPPORT. LOST and the frames drained with `discard` go up together, under every move (10_state R27,
41_irq_handler R153). -/

namespace Sys2Proof.Machine

/-- No frame was discarded and LOST is as it was, or one frame was discarded and counted. -/
def CountsDiscards (s t : State) : Prop :=
  (readCount false t.calls = readCount false s.calls ∧ t.lost = s.lost) ∨
    (readCount false t.calls = readCount false s.calls + 1 ∧ t.lost = lostSucc s.lost)

theorem CountsDiscards.refl (s : State) : CountsDiscards s s := .inl ⟨rfl, rfl⟩

theorem AskedOnly.lost {s u : State} (h : AskedOnly s u) : u.lost = s.lost :=
  congrArg QueueRegs.lost h.queueRegs

theorem AskedOnly.countsDiscards {s u : State} (h : AskedOnly s u) : CountsDiscards s u :=
  .inl ⟨h.reads false, h.lost⟩

/-- Calls made before that read no frame do not count. -/
theorem CountsDiscards.of_asked {s u t : State} (hu : AskedOnly s u) (h : CountsDiscards u t) :
    CountsDiscards s t := by
  rwa [CountsDiscards, hu.reads false, hu.lost] at h

/-- A frame drained with `keep` is no discard. -/
theorem readCount_false_keep (calls : List ChipCall) :
    readCount false (calls ++ [.readFrame true]) = readCount false calls := by
  simp [readCount]

theorem readCount_false_afterDrain (keep : Bool) (s : State) :
    readCount false (afterDrain keep s).calls = readCount false s.calls + if keep then 0 else 1 := by
  cases keep <;> simp [afterDrain, readCount]

theorem takeInterrupt_countsDiscards {f : Bool} {s t : State} (h : takeInterrupt f s = .next t) :
    CountsDiscards s t := by
  obtain ⟨_, _, rfl⟩ | ⟨_, _, _, _, rfl⟩ | ⟨_, _, _, rfl⟩ | ⟨_, rfl⟩ := takeInterrupt_next h
  · exact (AskedOnly.record s (by simp)).countsDiscards
  · exact .inl ⟨readCount_false_afterDrain true s, rfl⟩
  · exact .inr ⟨readCount_false_afterDrain false s, rfl⟩
  · exact .refl s

theorem afterLine_asked (s : State) : AskedOnly s (afterLine s) := AskedOnly.askBool s (c := .irqLine) (by simp)

theorem pollService_countsDiscards {s t : State} (h : pollService s = .next t) : CountsDiscards s t := by
  obtain ⟨_, rfl⟩ | ⟨_, _, rfl⟩ | ⟨_, _, _, hint⟩ | ⟨_, _, _, rfl⟩ := pollService_next h
  · exact .refl t
  · exact (afterLine_asked s).countsDiscards
  · exact (takeInterrupt_countsDiscards hint).of_asked ((afterLine_asked s).trans (AskedOnly.dropBool _))
  · exact (afterLine_asked s).countsDiscards

/-- Only the handler discards, run by the interrupt or by a poll. -/
theorem Move.countsDiscards {i : Instr} {s t : State} (m : Move s t i) : CountsDiscards s t := by
  cases m
  case irq hint => exact takeInterrupt_countsDiscards hint
  case poll u _ _ _ hpoll ht =>
    have hu : CountsDiscards s u := pollService_countsDiscards hpoll
    subst ht
    exact hu
  case hold hwait =>
    obtain ⟨_, ht⟩ | ⟨_, hpoll⟩ := hwait
    · exact ht ▸ .refl s
    · exact pollService_countsDiscards hpoll
  case u0 ht => exact ht ▸ .inl ⟨readCount_false_keep s.calls, rfl⟩
  case s2 op data _ _ _ _ ht =>
    subst ht
    exact (AskedOnly.record s (c := .startTransmit op.dest data op.len true) (by simp)).countsDiscards
  case s2End op data _ _ _ _ ht =>
    subst ht
    exact (AskedOnly.record s (c := .startTransmit op.dest data op.len false) (by simp)).countsDiscards
  case answer | u2 | initOk | initFailed | s4End | s4Again | lowPower | powerUp | setaddr =>
    subst_vars
    have hu : AskedOnly s _ := ‹_›
    exact hu.countsDiscards
  case illegal | none | c0 | c1 | c2 | c3 | c4 | u1 | s0 | s1 | s3 =>
    subst_vars
    exact .refl s

/-- A step that is not reset counts what it discards. -/
theorem step_countsDiscards {s t : State} (hr : ¬ s.resetNext) (h : step s = .next t) : CountsDiscards s t := by
  cases step_from h with
  | reset rest hin _ => exact absurd (by simp [State.resetNext, hin]) hr
  | waits _ _ _ ht => exact ht ▸ .refl s
  | reserved _ _ _ _ _ _ ht => exact ht ▸ .refl s
  | goesOn _ _ _ _ _ hx => exact (exec_move hx).countsDiscards
  | accepts _ _ _ _ _ _ hx => exact (exec_move hx).countsDiscards
  | interrupt _ _ _ _ _ hx => exact (exec_move hx).countsDiscards

end Sys2Proof.Machine
end

section
/-! The statements of the family 41_irq_handler. -/

namespace Sys2Proof.Machine

/-- Settles O26: the guard is R150's, and behind it the handler completes, TAIL being in range. -/
theorem irqStepsExactlyWhenEnabled : Obligations.IrqStepsExactlyWhenEnabled := by
  intro s f hinv
  constructor
  · rintro ⟨t, h⟩
    obtain ⟨hpolled, hbuf, hready, hact⟩ := irqEnabled_iff.1 (exec_irq_next h).1
    exact ⟨hbuf, hpolled, hready, Mode.active_iff.1 hact⟩
  · rintro ⟨hbuf, hpolled, hready, hm⟩
    rw [exec_irq_active hbuf hpolled hready hm]
    exact takeInterrupt_completes (Mode.active_iff.2 hm) hinv.tail_lt

/-- Settles O27: the handler's push on the drained state. -/
theorem irqStoresFrame : Obligations.IrqStoresFrame := by
  intro s hinv hbuf hpolled hready hm hroom
  have hdrained := afterDrain_inv true hinv
  have hstore := (exec_irq_active hbuf hpolled hready (.inl hm)).trans
    (takeInterrupt_store hm hroom hinv.tail_lt)
  rw [afterDrain_eq] at hdrained hstore
  have hlen := framePayload_le s
  obtain ⟨_, _, _, hmax⟩ := config_bounds hinv.config
  exact ⟨_, hstore, afterPush_slotLen_tail hdrained.memory _,
    afterPush_slotFrame_tail hdrained.memory (hlen.trans_lt hmax),
    fun a ha => afterPush_get_outside hdrained.memory ha, rfl⟩

/-- Settles O32, from the cases of the handler. -/
theorem handlerKeepsToItsState : Obligations.HandlerKeepsToItsState := by
  intro s f hc
  refine ⟨fun h a => exec_irq_withHeadAddr f h a s, fun t ht => ?_⟩
  obtain ⟨_, hint⟩ := exec_irq_next ht
  obtain ⟨_, hhead, haddr, _⟩ := takeInterrupt_frame hint
  exact ⟨hhead, haddr, takeInterrupt_monotone hc hint⟩

/-- Settles O54: a step discards no frame, or one that it counts. -/
theorem lostCountsDiscards : Obligations.LostCountsDiscards := by
  intro s t hr h
  have hbyte := s.lost.isLt
  obtain ⟨hcount, hlost⟩ | ⟨hcount, hlost⟩ := step_countsDiscards hr h
  · refine ⟨.inl hcount, ?_⟩
    rw [hlost, hcount, Nat.sub_self]
    omega
  · refine ⟨.inr hcount, ?_⟩
    rw [hlost, hcount, lostSucc_toNat, Nat.add_sub_cancel_left]

/-- Settles O28: OCC = N, so the frame is drained, discarded and counted. -/
theorem irqDiscardsAndCountsWhenFull : Obligations.IrqDiscardsAndCountsWhenFull := by
  intro s hbuf hpolled hready hm hfull
  rw [exec_irq_active hbuf hpolled hready (.inl hm), takeInterrupt_discard hm hfull.ge, afterDrain_eq]
  rfl

/-- Settles O29: with F = 0 the handler's RX path ends after the housekeeping. -/
theorem irqWithoutFrameChangesNothing : Obligations.IrqWithoutFrameChangesNothing := by
  intro s hbuf hpolled hready hm
  rw [exec_irq_active hbuf hpolled hready (.inl hm), takeInterrupt_noFrame hm]
  rfl

/-- Settles O30: the handler's TX path. -/
theorem irqCompletesTransmit : Obligations.IrqCompletesTransmit := by
  intro s f hbuf hpolled hready hm
  rw [exec_irq_active hbuf hpolled hready (.inr hm), takeInterrupt_txDone hm]

/-- Settles O31: READY = 0 or a low-power mode fails the guard. -/
theorem irqStuckWhenNotEnabled : Obligations.IrqStuckWhenNotEnabled := by
  intro s f hoff
  refine exec_irq_disabled ?_
  obtain h | h := hoff <;> simp [State.irqEnabled, State.handlerInUse, h]

end Sys2Proof.Machine
end

section
/-! SUPPORT. SEND, one equation per micro-step (42_mode_ops R172). -/

namespace Sys2Proof.Machine

theorem exec_send_idle {dest len : Byte} {noack : Bool} {s : State} (hp : s.phase = .idle) :
    exec (.send dest len noack) s = sendS0 ⟨dest, len, noack⟩ s := by
  change execSend dest len noack s = _
  rw [execSend, onPort_idle hp, hp]

theorem exec_send_s1 {op : SendOp} {s : State} (hp : s.phase = .sendS1 op) :
    exec (.send op.dest op.len op.noack) s = sendS1 op s := by
  change execSend op.dest op.len op.noack s = _
  rw [execSend, onPort_own (by rw [hp, Phase.instr]), hp]

theorem exec_send_s2 {op : SendOp} {data : List Byte} {a : Nat} {s : State} (hp : s.phase = .sendS2 op data a) :
    exec (.send op.dest op.len op.noack) s = sendS2 op data a s := by
  change execSend op.dest op.len op.noack s = _
  rw [execSend, onPort_own (by rw [hp, Phase.instr]), hp]

theorem exec_send_s3 {op : SendOp} {data : List Byte} {a : Nat} {s : State} (hp : s.phase = .sendS3 op data a) :
    exec (.send op.dest op.len op.noack) s = sendS3 op data a s := by
  change execSend op.dest op.len op.noack s = _
  rw [execSend, onPort_own (by rw [hp, Phase.instr]), hp]

theorem exec_send_s4 {op : SendOp} {data : List Byte} {a : Nat} {s : State} (hp : s.phase = .sendS4 op data a) :
    exec (.send op.dest op.len op.noack) s = sendS4 op data a s := by
  change execSend op.dest op.len op.noack s = _
  rw [execSend, onPort_own (by rw [hp, Phase.instr]), hp]

/-- s0 accepts exactly with READY = 1, an active mode and a legal length. -/
theorem sendRejected_eq_false_iff {len : Byte} {s : State} : sendRejected len s = false ↔
    s.ready = true ∧ s.mode.active = true ∧ len.toNat ≤ s.cfg.maxFrameLen := by
  simp [sendRejected, and_assoc]

/-- The state after s0: the operands are latched. -/
def afterS0 (op : SendOp) (s : State) : State := { s with phase := .sendS1 op }

theorem exec_send_accepted {dest len : Byte} {noack : Bool} {s : State} (hp : s.phase = .idle)
    (hready : s.ready = true) (hact : s.mode.active = true) (hlen : len.toNat ≤ s.cfg.maxFrameLen) :
    exec (.send dest len noack) s = .next (afterS0 ⟨dest, len, noack⟩ s) := by
  have hok := sendRejected_eq_false_iff.2 ⟨hready, hact, hlen⟩
  rw [exec_send_idle hp, sendS0, hok]
  rfl

/-- The state after s1: the payload is taken from TXD. -/
def afterS1 (op : SendOp) (s : State) : State :=
  { s with txd := s.txd.drop op.len.toNat, phase := .sendS2 op (s.txd.take op.len.toNat) 0 }

theorem exec_send_takes {op : SendOp} {s : State} (hp : s.phase = .sendS1 op)
    (hbytes : op.len.toNat ≤ s.txd.length) :
    exec (.send op.dest op.len op.noack) s = .next (afterS1 op s) := by
  rw [exec_send_s1 hp, sendS1, if_neg hbytes.not_gt]
  rfl

theorem exec_send_missing {op : SendOp} {s : State} (hp : s.phase = .sendS1 op)
    (hbytes : s.txd.length < op.len.toNat) :
    exec (.send op.dest op.len op.noack) s = .fault .txdMissing := by
  rw [exec_send_s1 hp, sendS1, if_pos hbytes]

/-- The state after the start of an attempt that waits for an acknowledgment. -/
def afterS2 (op : SendOp) (data : List Byte) (a : Nat) (s : State) : State :=
  { s with
    mode := .tx, txpend := true, phase := .sendS3 op data a
    calls := s.calls ++ [.startTransmit op.dest data op.len true] }

theorem exec_send_starts {op : SendOp} {data : List Byte} {a : Nat} {s : State}
    (hp : s.phase = .sendS2 op data a) (hack : op.noack = false) (hm : s.mode = .rx) :
    exec (.send op.dest op.len op.noack) s = .next (afterS2 op data a s) := by
  rw [exec_send_s2 hp, sendS2, hm, hack]
  rfl

/-- The state after the start of an attempt without acknowledgment: the operation ends. -/
def afterS2End (op : SendOp) (data : List Byte) (s : State) : State :=
  { s with
    mode := .tx, txpend := true, phase := .idle
    calls := s.calls ++ [.startTransmit op.dest data op.len false], rsp := s.rsp ++ [⟨.done, 1⟩] }

theorem exec_send_ends {op : SendOp} {data : List Byte} {a : Nat} {s : State}
    (hp : s.phase = .sendS2 op data a) (hack : op.noack = true) (hm : s.mode = .rx) :
    exec (.send op.dest op.len op.noack) s = .next (afterS2End op data s) := by
  rw [exec_send_s2 hp, sendS2, hm, hack]
  rfl

/-- SEND is held at s2 and s3. -/
theorem exec_send_held {op : SendOp} {data : List Byte} {a : Nat} {s : State}
    (h : (s.phase = .sendS2 op data a ∧ s.mode ≠ .rx) ∨ (s.phase = .sendS3 op data a ∧ s.txpend = true)) :
    exec (.send op.dest op.len op.noack) s = held s := by
  obtain ⟨hp, hm⟩ | ⟨hp, hpend⟩ := h
  · rw [exec_send_s2 hp, sendS2]
    cases hmode : s.mode
    case rx => exact absurd hmode hm
    all_goals rfl
  · rw [exec_send_s3 hp, sendS3, if_pos hpend]

theorem exec_send_transmitted {op : SendOp} {data : List Byte} {a : Nat} {s : State}
    (hp : s.phase = .sendS3 op data a) (hdone : s.txpend = false) :
    exec (.send op.dest op.len op.noack) s = .next { s with phase := .sendS4 op data a } := by
  rw [exec_send_s3 hp, sendS3, if_neg (by simp [hdone]), goto_eq]

/-- The state after the collaborator answered whether an acknowledgment came. -/
def afterAckResult (s : State) : State :=
  { s with bools := s.bools.tail, drawn := s.drawn + 1, calls := s.calls ++ [.ackResult] }

/-- s4: asked once, then the answer, or another attempt. -/
theorem exec_send_asks {op : SendOp} {data : List Byte} {a : Nat} {s : State}
    (hp : s.phase = .sendS4 op data a) :
    exec (.send op.dest op.len op.noack) s =
      if s.nextBool then respond .done 1 (afterAckResult s)
      else if a < s.cfg.retries then goto (.sendS2 op data (a + 1)) (afterAckResult s)
      else respond .done 0 (afterAckResult s) :=
  exec_send_s4 hp

end Sys2Proof.Machine
end

section
/-! SUPPORT. INIT, the low-power commands and POWERUP with no operation in progress (42_mode_ops R171, R173 to
R176). -/

namespace Sys2Proof.Machine

/-- The state after the call that INIT begins with (42_mode_ops R171). -/
def initAsked (s : State) : State := s.dropBool.record (.initRadio s.cfg.frequency s.addr s.cfg.networkId)

/-- INIT answers what the collaborator answered. -/
theorem exec_init_idle {s : State} (hp : s.phase = .idle) :
    exec .init s = respond .done (boolResult s.nextBool)
      (afterInit s.nextBool (provisionKey s.nextBool (initAsked s))) :=
  onPort_idle hp _

theorem provisionKey_success (s : State) : provisionKey true s =
    { s with calls := s.calls ++ (if s.cfg.encryption then [.encrypt] else []) } := by
  cases henc : s.cfg.encryption <;> simp [provisionKey, henc, State.record]

theorem provisionKey_plain {s : State} (h : s.cfg.encryption = false) (ok : Bool) : provisionKey ok s = s :=
  if_neg (by simp [h])

/-- Whether the key is provisioned or not, only the collaborator's answers and the record of calls can differ. -/
theorem provisionKey_changes (ok : Bool) (s : State) : ∃ bs d cs,
    provisionKey ok s = { s with bools := bs, drawn := d, calls := cs } ∧
      (cs = s.calls ∨ cs = s.calls ++ [.encrypt]) := by
  unfold provisionKey
  split_ifs
  · exact ⟨_, _, _, rfl, .inr rfl⟩
  · exact ⟨_, _, _, rfl, .inr rfl⟩
  · exact ⟨_, _, _, rfl, .inl rfl⟩
  · exact ⟨_, _, _, rfl, .inl rfl⟩

theorem registerHandler_eq (s : State) : registerHandler s =
    { s with calls := s.calls ++ (if s.cfg.buffered then [.registerReceiveCallback] else []) } := by
  cases hbuf : s.cfg.buffered <;> simp [registerHandler, hbuf, State.record]

/-- What a successful INIT leaves (42_mode_ops R171, R179). -/
theorem afterInit_success (s : State) : afterInit true (provisionKey true s) =
    { s with
      mode := .rx, txpend := false, ready := true
      calls := s.calls ++ (if s.cfg.encryption then [.encrypt] else []) ++
        (if s.cfg.buffered then [.registerReceiveCallback] else []) } := by
  rw [provisionKey_success, afterInit, if_pos rfl, registerHandler_eq]

theorem afterInit_failure (s : State) : afterInit false s = { s with ready := false } := rfl

theorem exec_sleep_idle {s : State} (hp : s.phase = .idle) : exec .sleep s = enterLowPower .sleep .sleep s :=
  onPort_idle hp _

theorem exec_standby_idle {s : State} (hp : s.phase = .idle) :
    exec .standby s = enterLowPower .standBy .standby s := onPort_idle hp _

theorem exec_powerdown_idle {s : State} (hp : s.phase = .idle) :
    exec .powerdown s = enterLowPower .powerDown .powerDown s := onPort_idle hp _

theorem enterLowPower_legal {s : State} (hp : s.phase = .idle) (hready : s.ready = true)
    (hm : s.mode = .rx ∨ s.mode = .tx) (call : ChipCall) (target : Mode) :
    enterLowPower call target s = .next { s with
      mode := target, txpend := false, calls := s.calls ++ [call], rsp := s.rsp ++ [⟨.done, 0⟩] } := by
  rw [enterLowPower, if_pos (by simp [hready, Mode.active_iff.2 hm])]
  exact respond_idle (s := { s.record call with mode := target, txpend := false }) hp .done 0

theorem enterLowPower_illegal {s : State} (hp : s.phase = .idle)
    (h : s.ready = false ∨ (s.mode ≠ .rx ∧ s.mode ≠ .tx)) (call : ChipCall) (target : Mode) :
    enterLowPower call target s = .next { s with rsp := s.rsp ++ [⟨.illegal, 0⟩] } := by
  have hoff : ¬ (s.ready && s.mode.active) = true := by
    rw [Bool.and_eq_true, Mode.active_iff]
    rintro ⟨hready, hm⟩
    obtain h | ⟨hrx, htx⟩ := h
    · simp [hready] at h
    · exact hm.elim hrx htx
  rw [enterLowPower, if_neg hoff, respondIllegal_idle hp]

/-- POWERUP leaves MODE = TX as it is, and from every other mode gives RX. -/
theorem wake_mode (m : Mode) : (if m.active then m else .rx) = if m = .tx then .tx else .rx := by
  cases m <;> rfl

theorem wake_eq (s : State) : (if s.mode.active then s else { s with mode := .rx }) =
    { s with mode := if s.mode = .tx then .tx else .rx } := by
  rw [← wake_mode]
  cases s.mode.active <;> rfl

theorem exec_powerup_ready {s : State} (hp : s.phase = .idle) (hready : s.ready = true) :
    exec .powerup s = .next { s with
      mode := if s.mode = .tx then .tx else .rx
      calls := s.calls ++ [.powerUp], rsp := s.rsp ++ [⟨.done, 0⟩] } := by
  change execPowerup s = _
  rw [execPowerup, onPort_idle hp, if_pos hready]
  refine (congrArg (respond .done 0) (wake_eq (s.record .powerUp))).trans ?_
  exact respond_idle (s := { s.record .powerUp with mode := _ }) hp .done 0

theorem exec_powerup_notReady {s : State} (hp : s.phase = .idle) (hready : s.ready = false) :
    exec .powerup s = .next { s with rsp := s.rsp ++ [⟨.illegal, 0⟩] } := by
  change execPowerup s = _
  rw [execPowerup, onPort_idle hp, if_neg (by simp [hready]), respondIllegal_idle hp]

end Sys2Proof.Machine
end

section
/-! SUPPORT. The steps of a whole SEND (42_mode_ops R172, 41_irq_handler R154). -/

namespace Sys2Proof.Machine

/-- The command word of a SEND that s0 accepts. -/
theorem step_send_accepted {dest len : Byte} {noack : Bool} {w : CmdWord} {rest : List Input} {s : State}
    (hw : encode (.send dest len noack) = .cw w) (hp : s.phase = .idle) (hin : s.inputs = .word (.cw w) :: rest)
    (hready : s.ready = true) (hact : s.mode.active = true) (hlen : len.toNat ≤ s.cfg.maxFrameLen) :
    step s = .next (afterS0 ⟨dest, len, noack⟩ { s with inputs := rest }) := by
  have hdec : decode (.cw w) = .ok (.send dest len noack) := hw ▸ decodeEncodeRoundTrip (.send dest len noack)
  exact (stepAcceptsDecodedCommand s rest w _ hp hin hdec).trans
    (exec_send_accepted (s := { s with inputs := rest }) hp hready hact hlen)

/-- With no input left the operation in progress has its next micro-step (log 22). -/
theorem step_silent_inProgress {i : Instr} {s : State} (hin : s.inputs = []) (hp : s.phase.instr = some i) :
    step s = exec i s :=
  (step_silent hin).trans (mainStep_inProgress hp)

theorem step_tick_inProgress {i : Instr} {rest : List Input} {s : State} (hin : s.inputs = .tick :: rest)
    (hp : s.phase.instr = some i) : step s = exec i { s with inputs := rest } :=
  (step_tick hin).trans (mainStep_inProgress hp)

/-- The state after the handler's TX path (41_irq_handler R154). -/
def afterTxDone (s : State) : State := { s with txpend := false, mode := .rx }

/-- The event byte of an interrupt that reports F. -/
def eventByte (f : Bool) : Byte := if f then 0x81 else 0x80

/-- An interrupt in MODE = TX completes the transmission. -/
theorem step_irq_txDone {f : Bool} {rest : List Input} {s : State}
    (hin : s.inputs = .word (.ev (eventByte f)) :: rest) (hen : s.irqEnabled = true) (hm : s.mode = .tx) :
    step s = .next (afterTxDone { s with inputs := rest }) :=
  calc step s
    _ = exec (.irq f) { s with inputs := rest } :=
      stepTakesDecodedEvent s rest _ _ hin (decodeEncodeRoundTrip (.irq f))
    _ = takeInterrupt f { s with inputs := rest } := exec_irq_enabled hen
    _ = _ := takeInterrupt_txDone hm

/-- The rest of a SEND without acknowledgment from s1 on: s1, s2. -/
theorem stepTimes_suppressed {op : SendOp} {s : State} (hp : s.phase = .sendS1 op) (hin : s.inputs = [])
    (hack : op.noack = true) (hm : s.mode = .rx) (hbytes : op.len.toNat ≤ s.txd.length) :
    stepTimes 2 s = .next (afterS2End op (s.txd.take op.len.toNat) (afterS1 op s)) := by
  have hs1 := (step_silent_inProgress hin (by rw [hp, Phase.instr])).trans (exec_send_takes hp hbytes)
  have hs2 := (step_silent_inProgress (s := afterS1 op s) hin rfl).trans (exec_send_ends rfl hack hm)
  rw [stepTimes_succ hs1, stepTimes_succ hs2, stepTimes]

/-- The state before s2 of a SEND that stands before s1 in `s`, with the inputs left then. -/
def beforeS2 (op : SendOp) (rest : List Input) (s : State) : State := afterS1 op { s with inputs := rest }

/-- The state before s3 of its first attempt. -/
def beforeS3 (op : SendOp) (rest : List Input) (s : State) : State :=
  afterS2 op (s.txd.take op.len.toNat) 0 (beforeS2 op rest s)

/-- The state before s4 of its first attempt, the transmission having been completed and no input being left. -/
def beforeS4 (op : SendOp) (s : State) : State :=
  { afterTxDone (beforeS3 op [] s) with phase := .sendS4 op (s.txd.take op.len.toNat) 0 }

/-- The state after s4 with an acknowledgment. -/
def acknowledged (op : SendOp) (s : State) : State :=
  { afterAckResult (beforeS4 op s) with phase := .idle, rsp := s.rsp ++ [⟨.done, 1⟩] }

/-- The rest of an acknowledged SEND from s1 on: s1, s2, the interrupt, s3, s4. -/
theorem stepTimes_acknowledged {op : SendOp} {f : Bool} {s : State} (hp : s.phase = .sendS1 op)
    (hin : s.inputs = [.tick, .tick, .word (.ev (eventByte f))]) (hack : op.noack = false)
    (hen : s.irqEnabled = true) (hm : s.mode = .rx) (hbytes : op.len.toNat ≤ s.txd.length)
    (hyes : s.nextBool = true) : stepTimes 5 s = .next (acknowledged op s) := by
  have hs1 : step s = .next (beforeS2 op [.tick, .word (.ev (eventByte f))] s) :=
    (step_tick_inProgress hin (by rw [hp, Phase.instr])).trans
      (exec_send_takes (s := { s with inputs := _ }) hp hbytes)
  have hs2 : step (beforeS2 op [.tick, .word (.ev (eventByte f))] s) =
      .next (beforeS3 op [.word (.ev (eventByte f))] s) :=
    (step_tick_inProgress rfl rfl).trans
      (exec_send_starts (s := beforeS2 op [.word (.ev (eventByte f))] s) rfl hack hm)
  obtain ⟨hpolled, hbuf, hready, _⟩ := irqEnabled_iff.1 hen
  have hirq : step (beforeS3 op [.word (.ev (eventByte f))] s) = .next (afterTxDone (beforeS3 op [] s)) :=
    step_irq_txDone rfl (irqEnabled_iff.2 ⟨hpolled, hbuf, hready, rfl⟩) rfl
  have hs3 : step (afterTxDone (beforeS3 op [] s)) = .next (beforeS4 op s) :=
    (step_silent_inProgress rfl rfl).trans (exec_send_transmitted rfl rfl)
  have hs4 : step (beforeS4 op s) = .next (acknowledged op s) :=
    (step_silent_inProgress rfl rfl).trans
      ((exec_send_asks (s := beforeS4 op s) rfl).trans (if_pos hyes))
  calc stepTimes 5 s
    _ = stepTimes 4 (beforeS2 op [.tick, .word (.ev (eventByte f))] s) := stepTimes_succ hs1 4
    _ = stepTimes 3 (beforeS3 op [.word (.ev (eventByte f))] s) := stepTimes_succ hs2 3
    _ = stepTimes 2 (afterTxDone (beforeS3 op [] s)) := stepTimes_succ hirq 2
    _ = stepTimes 1 (beforeS4 op s) := stepTimes_succ hs3 1
    _ = stepTimes 0 (acknowledged op s) := stepTimes_succ hs4 0

end Sys2Proof.Machine
end

section
/-! SUPPORT. What can change MODE, said once for the handler, the poll and every move (42_mode_ops R170). -/

namespace Sys2Proof.Machine

/-- The transmission pending in `s` is complete in `t` (41_irq_handler R154). -/
def CompletesTransmit (s t : State) : Prop := s.mode = .tx ∧ t.mode = .rx ∧ t.txpend = false

theorem takeInterrupt_mode {f : Bool} {s t : State} (h : takeInterrupt f s = .next t) :
    t.mode = s.mode ∨ CompletesTransmit s t := by
  obtain ⟨_, _, rfl⟩ | ⟨_, _, _, _, rfl⟩ | ⟨_, _, _, rfl⟩ | ⟨hm, rfl⟩ := takeInterrupt_next h
  · exact .inl rfl
  · exact .inl rfl
  · exact .inl rfl
  · exact .inr ⟨hm, rfl, rfl⟩

/-- A poll of a line found asserted, with the handler in use, completed the transmission. -/
def PollCompletes (s t : State) : Prop :=
  s.cfg.irqPolled = true ∧ s.handlerInUse = true ∧ s.nextBool = true ∧ CompletesTransmit s t

theorem pollService_mode {s t : State} (hpolled : s.cfg.irqPolled = true) (h : pollService s = .next t) :
    t.mode = s.mode ∨ PollCompletes s t := by
  obtain ⟨_, rfl⟩ | ⟨_, _, rfl⟩ | ⟨huse, hline, _, hint⟩ | ⟨huse, hline, hm, rfl⟩ := pollService_next h
  · exact .inl rfl
  · exact .inl rfl
  · exact (takeInterrupt_mode hint).imp_right fun hdone => ⟨hpolled, huse, hline, hdone⟩
  · exact .inr ⟨hpolled, huse, hline, hm, rfl, rfl⟩

/-- `i` is the command that enters the low-power mode `m` (42_mode_ops R173 to R175). -/
def Enters (i : Instr) (m : Mode) : Prop :=
  (i = .sleep ∧ m = .sleep) ∨ (i = .standby ∧ m = .standby) ∨ (i = .powerdown ∧ m = .powerDown)

/-- The changes of MODE that a command makes when it is accepted. -/
def CommandChangesMode (i : Instr) (s t : State) : Prop :=
  (Enters i t.mode ∧ s.ready = true ∧ s.mode.active = true) ∨
    (i = .powerup ∧ s.ready = true ∧ s.mode.active = false ∧ t.mode = .rx) ∨
    (i = .init ∧ s.nextBool = true ∧ t.mode = .rx ∧ t.txpend = false) ∨
    (i = .available ∧ PollCompletes s t)

/-- The changes of MODE that a SEND in progress makes: it starts a transmission, or a poll lifts its hold. -/
def SendChangesMode (s t : State) : Prop :=
  (∃ op data a, s.phase = .sendS2 op data a ∧ s.mode = .rx ∧ t.mode = .tx) ∨
    (((∃ op data a, s.phase = .sendS2 op data a) ∨ ∃ op data a, s.phase = .sendS3 op data a ∧ s.txpend = true) ∧
      PollCompletes s t)

theorem AskedOnly.mode {s u : State} (h : AskedOnly s u) : u.mode = s.mode :=
  (congrArg State.mode h.same).trans rfl

/-- Everything a micro-step of MAIN can do to MODE. -/
theorem Move.main_mode {i : Instr} {s t : State} (hi : isMain i = true) (m : Move s t i) :
    t.mode = s.mode ∨ (s.phase = .idle ∧ CommandChangesMode i s t) ∨ SendChangesMode s t := by
  cases m
  case irq => cases hi
  case poll u hp _ hpolled hpoll ht =>
    subst ht
    obtain hsame | hdone := pollService_mode hpolled hpoll
    · exact .inl hsame
    · exact .inr (.inl ⟨hp, .inr (.inr (.inr ⟨rfl, hdone⟩))⟩)
  case hold op data a hheld hwait =>
    obtain ⟨_, ht⟩ | ⟨hpolled, hpoll⟩ := hwait
    · exact .inl (ht ▸ rfl)
    · refine (pollService_mode hpolled hpoll).imp_right fun hdone => .inr (.inr ⟨?_, hdone⟩)
      exact hheld.imp (fun ⟨hp, _⟩ => ⟨op, data, a, hp⟩) fun hs3 => ⟨op, data, a, hs3⟩
  case s2 op data a hp _ hm ht | s2End op data a hp _ hm ht =>
    exact .inr (.inr (.inl ⟨op, data, a, hp, hm, ht ▸ rfl⟩))
  case initOk hp hok _ ht => exact .inr (.inl ⟨hp, .inr (.inr (.inl ⟨rfl, hok, ht ▸ rfl, ht ▸ rfl⟩))⟩)
  case lowPower hp hready hact _ ht him =>
    subst ht
    exact .inr (.inl ⟨hp, .inl ⟨him, hready, hact⟩⟩)
  case powerUp hp hready _ ht =>
    subst ht
    cases hact : s.mode.active
    · exact .inr (.inl ⟨hp, .inr (.inl ⟨rfl, hready, hact, rfl⟩)⟩)
    · exact .inl rfl
  case answer | u2 | initFailed | s4End | s4Again | setaddr =>
    subst_vars
    have hu : AskedOnly s _ := ‹_›
    exact .inl hu.mode
  case illegal | none | c0 | c1 | c2 | c3 | c4 | u0 | u1 | s0 | s1 | s3 =>
    subst_vars
    exact .inl rfl

/-- An accepted command changes MODE only in the ways of a command. -/
theorem exec_idle_mode {i : Instr} {s t : State} (hi : isMain i = true) (hp : s.phase = .idle)
    (h : exec i s = .next t) (hne : t.mode ≠ s.mode) : CommandChangesMode i s t := by
  obtain hsame | ⟨_, hcmd⟩ | hsend := (exec_move h).main_mode hi
  · exact absurd hsame hne
  · exact hcmd
  · simp [SendChangesMode, hp] at hsend

/-- An operation in progress changes MODE only in the ways of a SEND. -/
theorem exec_inProgress_mode {i : Instr} {s t : State} (hi : s.phase.instr = some i) (h : exec i s = .next t)
    (hne : t.mode ≠ s.mode) : SendChangesMode s t := by
  obtain hsame | ⟨hp, _⟩ | hsend := (exec_move h).main_mode (phase_instr_isMain hi)
  · exact absurd hsame hne
  · simp [phase_instr_none.2 hp] at hi
  · exact hsend

end Sys2Proof.Machine
end

section
/-! The statements of the family 42_mode_ops. -/

namespace Sys2Proof.Machine

/-- Settles O41: s0 accepts the word, s1 takes the payload, s2 starts the transmission and answers. -/
theorem suppressedSendAlwaysSucceeds : Obligations.SuppressedSendAlwaysSucceeds := by
  intro s dest len w hw hp hready hm hlen hbytes hin
  have hs0 := step_send_accepted hw hp hin hready (Mode.active_iff.2 (.inl hm)) hlen
  have hrest := stepTimes_suppressed (s := afterS0 ⟨dest, len, true⟩ { s with inputs := [] }) rfl rfl rfl hm hbytes
  rw [stepTimes_succ hs0, hrest, afterS2End, ← hp]
  rfl

/-- Settles O42: s0 accepts the word, and the rest of the SEND returns to MODE = RX by the interrupt. -/
theorem acknowledgedSendReturnsToRx : Obligations.AcknowledgedSendReturnsToRx := by
  intro s dest len w f hw hp hbuf hpolled hready hm hpend hlen hbytes hyes hin
  have hact : s.mode.active = true := Mode.active_iff.2 (.inl hm)
  have hen : s.irqEnabled = true := irqEnabled_iff.2 ⟨hpolled, hbuf, hready, hact⟩
  have hs0 := step_send_accepted hw hp hin hready hact hlen
  have hrest := stepTimes_acknowledged (f := f)
    (s := afterS0 ⟨dest, len, false⟩ { s with inputs := [.tick, .tick, .word (.ev (eventByte f))] })
    rfl rfl rfl hen hm hbytes hyes
  refine (stepTimes_succ hs0 5).trans (hrest.trans ?_)
  simp [acknowledged, afterAckResult, beforeS4, afterTxDone, beforeS3, afterS2, beforeS2, afterS1, afterS0, hp, hm,
    hpend]

/-- Settles O45: an accepted command, a SEND in progress and the interrupt each change MODE in their own ways. -/
theorem modeChangesOnlyAsListed : Obligations.ModeChangesOnlyAsListed := by
  intro s t hr h hne
  cases step_from h with
  | reset rest hin _ => exact absurd (by simp [State.resetNext, hin]) hr
  | waits _ _ _ ht | reserved _ _ _ _ _ _ ht => exact absurd (ht ▸ rfl) hne
  | goesOn i rest hi _ he hx =>
    have hsend : SendChangesMode s t := exec_inProgress_mode (s := { s with inputs := rest }) hi hx hne
    obtain ⟨op, data, a, hp, hs, ht⟩ | ⟨hp, hpolled, huse, hline, hs, ht, hdone⟩ := hsend
    · refine ⟨fun _ => ⟨hs, op, data, a, hp⟩, ?_, ?_, ?_⟩ <;> simp [hs, ht, Mode.active]
    · obtain ⟨hbuf, hready, _⟩ := handlerInUse_iff.1 huse
      exact ⟨by simp [ht], by simp [ht, Mode.active], by simp [hs, Mode.active], fun _ _ =>
        ⟨hdone, .inr (.inl ⟨he, hbuf, hpolled, hready, hline, .inr hp⟩)⟩⟩
  | accepts i w rest hp hin hdec hx =>
    have hcmd : CommandChangesMode i s t :=
      exec_idle_mode (s := { s with inputs := rest }) (decode_cw hdec) hp hx hne
    have hacc : s.accepts i := ⟨hp, w, rest, hin, hdec⟩
    have he : ¬ s.eventNext := by simp [State.eventNext, hin]
    obtain ⟨hi, hready, hact⟩ | ⟨rfl, hready, hs, ht⟩ | ⟨rfl, hyes, ht, hpend⟩ |
      ⟨rfl, hpolled, huse, hline, hs, ht, hdone⟩ := hcmd
    · obtain ⟨rfl, ht⟩ | ⟨rfl, ht⟩ | ⟨rfl, ht⟩ := hi <;> simp [ht, hready, hact, hacc]
    · refine ⟨by simp [ht], by simp [ht, Mode.active], fun _ => ⟨ht, .inl ⟨hacc, hready⟩⟩, fun htx => ?_⟩
      simp [htx, Mode.active] at hs
    · exact ⟨by simp [ht], by simp [ht, Mode.active], fun _ => ⟨ht, .inr ⟨hacc, hyes⟩⟩, fun _ _ =>
        ⟨hpend, .inr (.inr ⟨hacc, hyes⟩)⟩⟩
    · obtain ⟨hbuf, hready, _⟩ := handlerInUse_iff.1 huse
      exact ⟨by simp [ht], by simp [ht, Mode.active], by simp [hs, Mode.active], fun _ _ =>
        ⟨hdone, .inr (.inl ⟨he, hbuf, hpolled, hready, hline, .inl hacc⟩)⟩⟩
  | interrupt i e rest hin hdec hx =>
    obtain ⟨f, rfl⟩ := decode_ev hdec
    obtain ⟨hen, hint⟩ := exec_irq_next hx
    obtain ⟨hpolled, hbuf, hready, _⟩ := irqEnabled_iff.1 hen
    obtain ⟨hs, ht, hdone⟩ : CompletesTransmit s t := (takeInterrupt_mode hint).resolve_left hne
    exact ⟨by simp [ht], by simp [ht, Mode.active], by simp [hs, Mode.active], fun _ _ =>
      ⟨hdone, .inl ⟨⟨e, rest, hin⟩, hbuf, hpolled, hready⟩⟩⟩

/-- Settles O34: the key is provisioned and the handler registered where the parameters ask for it. -/
theorem initSucceeds : Obligations.InitSucceeds := by
  intro s hp hok
  rw [exec_init_idle hp, hok, afterInit_success, respond_eq, ← hp]
  rfl

/-- Settles O35: READY is cleared, and the key's call is all that may follow. -/
theorem initFails : Obligations.InitFails := by
  intro s hp hfail
  obtain ⟨bs, d, cs, hkey, hcs⟩ := provisionKey_changes false (initAsked s)
  rw [exec_init_idle hp, hfail, afterInit_failure]
  refine ⟨fun henc => ?_, ?_⟩
  · rw [provisionKey_plain (s := initAsked s) henc, respond_eq, ← hp]
    rfl
  · rw [hkey, respond_eq, ← hp]
    refine ⟨_, rfl, rfl, ?_⟩
    simpa [initAsked] using hcs

/-- Settles O36: each of the three grounds makes s0 reject. (The model's own test has the name `sendRejected`.) -/
theorem sendRejectedAnswersIllegal : Obligations.SendRejected := by
  intro s dest len noack hp hbad
  have hrej : sendRejected len s = true := by
    obtain h | h | h := hbad <;> simp [sendRejected, h]
  rw [exec_send_idle hp, sendS0, hrej, if_pos rfl, respondIllegal_idle hp]

/-- Settles O37, one equation per case of s0 and s1. -/
theorem sendTakesPayload : Obligations.SendTakesPayload :=
  fun _ _ _ _ => ⟨exec_send_accepted, exec_send_takes, exec_send_missing⟩

/-- Settles O38, one equation for each value of the acknowledgment flag. -/
theorem sendStartsTransmit : Obligations.SendStartsTransmit :=
  fun _ _ _ _ _ hm => ⟨fun hp => exec_send_ends hp rfl hm, fun hp => exec_send_starts hp rfl hm⟩

/-- Settles O39: a held SEND polls where the line is polled, and the poll needs the handler in use. -/
theorem sendHeldUntilTransmitCompletes : Obligations.SendHeldUntilTransmitCompletes := by
  intro s op data a hheld
  rw [exec_send_held hheld]
  refine ⟨fun hoff => ?_, fun hpolled hbuf hready hm => ?_⟩
  · rw [held]
    split_ifs with hpolled
    · refine pollService_off ?_
      obtain h | h | h | h := hoff
      · simp [hpolled] at h
      all_goals simp [State.handlerInUse, h]
    · rfl
  · have huse : s.handlerInUse = true := handlerInUse_iff.2 ⟨hbuf, hready, Mode.active_iff.2 (.inr hm)⟩
    rw [held, if_pos hpolled]
    exact ⟨fun hline => pollService_quiet huse hline, fun hline => pollService_tx huse hline hm⟩

/-- Settles O40, from the equations of s3 and s4. -/
theorem sendAsksAndRetries : Obligations.SendAsksAndRetries := by
  intro s op data a
  refine ⟨exec_send_transmitted, fun hp => ?_⟩
  rw [exec_send_asks hp]
  refine ⟨fun hyes => if_pos hyes, fun hno hmore => ?_, fun hno hlast => ?_⟩
  · rw [hno, if_neg Bool.false_ne_true, if_pos hmore]
    rfl
  · rw [hno, if_neg Bool.false_ne_true, if_neg hlast.not_gt]
    rfl

/-- Settles O43: the words by evaluation, the three commands as entries into their modes. -/
theorem lowPowerEntry : Obligations.LowPowerEntry := by
  refine ⟨⟨by decide, by decide, by decide⟩, fun s hp => ?_⟩
  rw [exec_sleep_idle hp, exec_standby_idle hp, exec_powerdown_idle hp]
  constructor
  · intro hready hm
    have hlegal := enterLowPower_legal hp hready hm
    exact ⟨hlegal _ _, hlegal _ _, hlegal _ _⟩
  · intro hoff
    have hillegal := enterLowPower_illegal hp hoff
    exact ⟨hillegal _ _, hillegal _ _, hillegal _ _⟩

/-- Settles O44: the word by evaluation, and one equation for each value of READY. -/
theorem powerUpReturnsToRx : Obligations.PowerUpReturnsToRx :=
  ⟨by decide, fun _ hp => ⟨exec_powerup_ready hp, exec_powerup_notReady hp⟩⟩

end Sys2Proof.Machine
end

section
/-! SUPPORT. A command word with an operand in its A field, as the spec writes it (30_encoding R90, R94). -/

namespace Sys2Proof

theorem commandWord_operand_toNat (op a : Byte) :
    (commandWord op a 0 0).toNat = a.toNat * 256 + op.toNat := by
  simp only [commandWord, BitVec.toNat_append, ← Nat.shiftLeft_add_eq_or_of_lt op.isLt]
  simp [Nat.shiftLeft_eq]

theorem operandWord_eq (op a : Byte) :
    op.zeroExtend 32 + (a.zeroExtend 32 <<< 8) = commandWord op a 0 0 := by
  apply BitVec.eq_of_toNat_eq
  rw [commandWord_operand_toNat]
  bv_omega

/-- The spec's word for a command with the one operand `a` decodes to that command. -/
theorem decodeCommand_operand {i : Instr} {op a : Byte} (hi : encode i = .cw (commandWord op a 0 0)) :
    decodeCommand (op.zeroExtend 32 + (a.zeroExtend 32 <<< 8)) = .ok i := by
  have hdec : decode (.cw (commandWord op a 0 0)) = .ok i := hi ▸ Machine.decodeEncodeRoundTrip i
  rw [operandWord_eq]
  exact hdec

end Sys2Proof
end

section
/-! SUPPORT. The pass-through operations with no operation in progress: what each forwards, and the two ways a
setting and a query end (43_facade_passthrough R200 to R210). -/

namespace Sys2Proof.Machine

theorem exec_setaddr_idle {s : State} (hp : s.phase = .idle) (a : Byte) : exec (.setaddr a) s = .next { s with
    addr := a, calls := s.calls ++ [.setAddress a], rsp := s.rsp ++ [⟨.done, 0⟩] } :=
  (onPort_idle hp _).trans (respond_idle (s := { s.record (.setAddress a) with addr := a }) hp .done 0)

theorem exec_getaddr_idle {s : State} (hp : s.phase = .idle) :
    exec .getaddr s = respond .done (byteResult s.addr) s := onPort_idle hp _

theorem exec_settxlvl_idle {s : State} (hp : s.phase = .idle) (v : Byte) : exec (.settxlvl v) s =
    forwardSetting s.cfg.hasTxLevel txLevelMax v (.setTxPowerLevel v) s := onPort_idle hp _

theorem exec_settxpct_idle {s : State} (hp : s.phase = .idle) (v : Byte) : exec (.settxpct v) s =
    forwardSetting s.cfg.hasTxPercent txPercentMax v (.setTxPowerPercent v) s := onPort_idle hp _

theorem exec_gettxlvl_idle {s : State} (hp : s.phase = .idle) : exec .gettxlvl s =
    forwardQuery s.cfg.hasTxLevel s.cfg.invalidLevel .getTxPowerLevel s := onPort_idle hp _

theorem exec_gettxpct_idle {s : State} (hp : s.phase = .idle) : exec .gettxpct s =
    forwardQuery s.cfg.hasTxPercent s.cfg.invalidPercent .getTxPowerPercent s := onPort_idle hp _

theorem exec_getsrssi_idle {s : State} (hp : s.phase = .idle) : exec .getsrssi s =
    forwardQuery s.cfg.hasRssiTx s.cfg.invalidRssi (.getRssi true) s := onPort_idle hp _

theorem exec_getrrssi_idle {s : State} (hp : s.phase = .idle) : exec .getrrssi s =
    forwardQuery s.cfg.hasRssiRx s.cfg.invalidRssi (.getRssi false) s := onPort_idle hp _

theorem exec_getssnr_idle {s : State} (hp : s.phase = .idle) : exec .getssnr s =
    forwardQuery s.cfg.hasSnrTx s.cfg.invalidSnr (.getSnr true) s := onPort_idle hp _

theorem exec_getrsnr_idle {s : State} (hp : s.phase = .idle) : exec .getrsnr s =
    forwardQuery s.cfg.hasSnrRx s.cfg.invalidSnr (.getSnr false) s := onPort_idle hp _

theorem exec_sanity_idle {s : State} (hp : s.phase = .idle) : exec .sanity s =
    respond .done (boolResult s.nextBool) (s.dropBool.record .sanityCheck) := onPort_idle hp _

/-- A Boolean answer of the collaborator passed on as the response. -/
theorem respond_asked {s : State} (hp : s.phase = .idle) (call : ChipCall) :
    respond .done (boolResult s.nextBool) (s.dropBool.record call) = .next { s with
      bools := s.bools.tail, drawn := s.drawn + 1, calls := s.calls ++ [call]
      rsp := s.rsp ++ [⟨.done, if s.nextBool then 1 else 0⟩] } :=
  respond_idle (s := s.dropBool.record call) hp .done _

/-- A setting that the variant supports, in range. -/
theorem forwardSetting_forwarded {supported : Bool} {bound : Nat} {v : Byte} (h : supported = true)
    (hv : v.toNat ≤ bound) (call : ChipCall) (s : State) : forwardSetting supported bound v call s =
      respond .done (boolResult s.nextBool) (s.dropBool.record call) := by
  rw [forwardSetting, if_neg (by simp [h]), if_neg hv.not_gt]
  rfl

/-- A setting that is not supported or out of range. -/
theorem forwardSetting_refused {supported : Bool} {bound : Nat} {v : Byte}
    (h : supported = false ∨ bound < v.toNat) (call : ChipCall) (s : State) :
    forwardSetting supported bound v call s = respond .done 0 s := by
  rw [forwardSetting]
  obtain h | h := h
  · rw [if_pos (by simp [h])]
  · rw [if_pos h, ite_self]

theorem forwardQuery_idle {s : State} (hp : s.phase = .idle) (supported : Bool) (sentinel : Half)
    (call : ChipCall) : forwardQuery supported sentinel call s = .next (if supported then { s with
        words := s.words.tail, drawn := s.drawn + 1, calls := s.calls ++ [call]
        rsp := s.rsp ++ [⟨.done, s.nextHalf⟩] }
      else { s with rsp := s.rsp ++ [⟨.done, sentinel⟩] }) := by
  cases supported
  · exact respond_idle hp .done sentinel
  · exact respond_idle (s := s.dropHalf.record call) hp .done s.nextHalf

end Sys2Proof.Machine
end

section
/-! SUPPORT. The frame of the pass-through operations other than SETADDR: each answers DONE after at most a call
of the collaborator (43_facade_passthrough R211). -/

namespace Sys2Proof.Machine

/-- The micro-step answers DONE, and before that only calls of the collaborator were made. -/
def AnswersDone (s : State) (r : Result) : Prop := ∃ u v, AskedOnly s u ∧ r = respond .done v u

/-- A setting answers DONE, forwarded or refused. -/
theorem forwardSetting_answersDone {call : ChipCall} (hc : ∀ keep, call ≠ .readFrame keep) (supported : Bool)
    (bound : Nat) (v : Byte) (s : State) : AnswersDone s (forwardSetting supported bound v call s) := by
  by_cases h : supported = false ∨ bound < v.toNat
  · exact ⟨s, 0, AskedOnly.refl s, forwardSetting_refused h call s⟩
  · rw [not_or, Bool.not_eq_false, not_lt] at h
    obtain ⟨hsup, hv⟩ := h
    exact ⟨_, _, AskedOnly.askBool s hc, forwardSetting_forwarded hsup hv call s⟩

/-- A query answers DONE, with the value or the sentinel. -/
theorem forwardQuery_answersDone {call : ChipCall} (hc : ∀ keep, call ≠ .readFrame keep) (supported : Bool)
    (sentinel : Half) (s : State) : AnswersDone s (forwardQuery supported sentinel call s) := by
  cases supported
  · exact ⟨s, sentinel, AskedOnly.refl s, rfl⟩
  · exact ⟨_, _, AskedOnly.askHalf s hc, rfl⟩

/-- Every operation of the family but SETADDR answers DONE after at most a call. -/
theorem facade_answersDone {i : Instr} {s : State} (hi : isFacade i = true) (hp : s.phase = .idle)
    (hset : ∀ a, i ≠ .setaddr a) : AnswersDone s (exec i s) := by
  cases i with
  | setaddr a => exact absurd rfl (hset a)
  | getaddr => exact ⟨s, _, AskedOnly.refl s, exec_getaddr_idle hp⟩
  | settxlvl v => exact exec_settxlvl_idle hp v ▸ forwardSetting_answersDone (by simp) _ _ v s
  | settxpct v => exact exec_settxpct_idle hp v ▸ forwardSetting_answersDone (by simp) _ _ v s
  | gettxlvl => exact exec_gettxlvl_idle hp ▸ forwardQuery_answersDone (by simp) _ _ s
  | gettxpct => exact exec_gettxpct_idle hp ▸ forwardQuery_answersDone (by simp) _ _ s
  | getsrssi => exact exec_getsrssi_idle hp ▸ forwardQuery_answersDone (by simp) _ _ s
  | getrrssi => exact exec_getrrssi_idle hp ▸ forwardQuery_answersDone (by simp) _ _ s
  | getssnr => exact exec_getssnr_idle hp ▸ forwardQuery_answersDone (by simp) _ _ s
  | getrsnr => exact exec_getrsnr_idle hp ▸ forwardQuery_answersDone (by simp) _ _ s
  | sanity => exact ⟨_, _, AskedOnly.askBool s (by simp), exec_sanity_idle hp⟩
  | _ => cases hi

/-- An operation that answers DONE after at most calls changes no register and no slot. -/
theorem AnswersDone.frame {s : State} {r : Result} (h : AnswersDone s r) (hp : s.phase = .idle) :
    ∃ t v, r = .next t ∧
      t = { s with
        bools := t.bools, words := t.words, drawn := t.drawn, calls := t.calls
        rsp := s.rsp ++ [⟨.done, v⟩] } := by
  obtain ⟨u, v, ⟨hsame, _⟩, rfl⟩ := h
  refine ⟨_, v, respond_eq .done v u, ?_⟩
  rw [hsame, ← hp]

end Sys2Proof.Machine
end

section
/-! The statements of the family 43_facade_passthrough. -/

namespace Sys2Proof.Machine

/-- Settles O50: SETADDR has its own equation, and every other operation answers after at most a call. -/
theorem facadeTouchesOnlyAddress : Obligations.FacadeTouchesOnlyAddress := by
  intro i s hi hp
  by_cases hset : ∃ a, i = .setaddr a
  · obtain ⟨a, rfl⟩ := hset
    exact ⟨_, 0, exec_setaddr_idle hp a, rfl, .inr ⟨a, rfl, rfl⟩⟩
  · obtain ⟨t, v, hx, ht⟩ := (facade_answersDone hi hp (not_exists.1 hset)).frame hp
    have haddr : t.addr = s.addr := by rw [ht]
    exact ⟨t, v, hx, by rw [haddr]; exact ht, .inl haddr⟩

/-- Settles O46: SETADDR's word by its operand field, GETADDR's by evaluation, and one equation each. -/
theorem addressRegister : Obligations.AddressRegister := by
  refine ⟨fun a => decodeCommand_operand (op := 0x20) rfl, by decide, fun s hp => ⟨exec_setaddr_idle hp, ?_⟩⟩
  rw [exec_getaddr_idle hp, respond_idle hp, byteResult_eq]

/-- Settles O47: both settings are forwarded under the same check, each with its own flag and bound. -/
theorem powerSettingsRangeChecked : Obligations.PowerSettingsRangeChecked := by
  refine ⟨fun v => ⟨decodeCommand_operand (op := 0x22) rfl, decodeCommand_operand (op := 0x24) rfl⟩,
    fun s v hp => ?_⟩
  rw [exec_settxlvl_idle hp, exec_settxpct_idle hp]
  exact ⟨fun hsup hv => (forwardSetting_forwarded hsup hv _ s).trans (respond_asked hp _),
    fun hoff => (forwardSetting_refused hoff _ s).trans (respond_idle hp .done 0),
    fun hsup hv => (forwardSetting_forwarded hsup hv _ s).trans (respond_asked hp _),
    fun hoff => (forwardSetting_refused hoff _ s).trans (respond_idle hp .done 0)⟩

/-- Settles O48: the words by evaluation, and each query as the forwarding of its own call under its own flag. -/
theorem queriesAnswerValueOrSentinel : Obligations.QueriesAnswerValueOrSentinel := by
  refine ⟨by decide, fun s hp => ?_⟩
  have hquery := forwardQuery_idle hp
  exact ⟨(exec_gettxlvl_idle hp).trans (hquery ..), (exec_gettxpct_idle hp).trans (hquery ..),
    (exec_getsrssi_idle hp).trans (hquery ..), (exec_getrrssi_idle hp).trans (hquery ..),
    (exec_getssnr_idle hp).trans (hquery ..), (exec_getrsnr_idle hp).trans (hquery ..)⟩

/-- Settles O49: the word by evaluation, and the self-test's answer is the response. -/
theorem sanityForwardsSelfTest : Obligations.SanityForwardsSelfTest :=
  ⟨by decide, fun _ hp => (exec_sanity_idle hp).trans (respond_asked hp .sanityCheck)⟩

end Sys2Proof.Machine
end

section
/-! The statements of the family 60_exceptions. -/

namespace Sys2Proof.Machine

/-- Settles O33: the event is one invocation of the handler, and O33's registers and ports are part of what every
invocation leaves alone. -/
theorem interruptLeavesMainFrozen : Obligations.InterruptLeavesMainFrozen := by
  intro s t f h
  obtain ⟨_, hint⟩ := exec_irq_next h
  obtain ⟨_, _, _, hready, hphase, hinputs, htxd, hrsp, hrxd⟩ := takeInterrupt_frame hint
  exact ⟨hphase, hready, hrsp, hrxd, htxd, hinputs⟩

end Sys2Proof.Machine
end

section
/-! SUPPORT. The step that asserts `rst` (70_reset R270). -/

namespace Sys2Proof.Machine

/-- The `rst` input is taken in every phase (70_reset R270). -/
theorem step_rst {s : State} {rest : List Input} (hin : s.inputs = .rst :: rest) :
    step s = .next (hardwareReset { s with inputs := rest }) := by
  rw [step, nextStep, hin]

end Sys2Proof.Machine
end

section
/-! The statements of the family 70_reset_and_hazards. -/

namespace Sys2Proof.Machine

/-- Settles O13: the step is `hardwareReset`, which keeps the configuration, the ports and the further inputs. -/
theorem resetInputResetsRegisters : Obligations.ResetInputResetsRegisters := by
  intro s rest hin
  exact ⟨_, step_rst hin, by simp⟩

/-- Settles O15: after reset OCC = 0 < N and READY = 0, so each operation answers as it does on an empty queue that
is not full, and the poll of a polled line does nothing. -/
theorem preInitAnswers : Obligations.PreInitAnswers := by
  intro c a m s hc hs
  have hp : s.phase = .idle := hs ▸ rfl
  obtain ⟨_, _, hqueue⟩ := qemptyQfullAnswerOccupancy
  obtain ⟨hqempty, hqfull⟩ := hqueue s hp
  obtain ⟨_, hcsr⟩ := rdcsrReadsRegister
  obtain ⟨hstatus, hocc, hlost, hmode, _⟩ := hcsr s hp
  have hpoll := availablePollsOnce s hp
  have hnone := receiveEmptyAnswersNone s hp
  subst hs
  have hroom : 0 ≠ c.n := (config_bounds hc).1.ne
  refine ⟨fun hbuf hpolled => availableAnswersOccupancy _ (.inl ⟨rfl, hbuf, hpolled⟩), fun hbuf hpolled => ?_,
    fun hbuf => hnone hbuf rfl, hqempty, ?_, ?_, hocc, hlost, hmode⟩
  · obtain ⟨hoff, _⟩ := hpoll hbuf hpolled
    exact ⟨_, hoff (.inl rfl), availableAnswersOccupancy _ (.inr rfl)⟩
  · simpa [hroom] using hqfull
  · simpa [hroom] using hstatus

end Sys2Proof.Machine
end
